-- ==== Sys2Proof/Word.lean ====
section
/-! DEFINITION. The word, byte and identifier types. -/

namespace Sys2Proof

/-- An XLEN-bit value: an SSR value, a general register's value, an instruction address (R5, R20, R26, R27). `XLEN` is
an argument: it is the field `xlen` of the parameter record `Config` (R5, R8). -/
abbrev Word (xlen : Nat) := BitVec xlen

/-- An 8-bit byte (R27 counts instruction lengths in 8-bit bytes). -/
abbrev Byte := BitVec 8

/-- An SSR identifier in its normal form, the 24-bit value (R21). -/
abbrev SsrId := BitVec 24

end Sys2Proof
end

