-- ==== Sys2Proof/Machine/Layouts.lean ====
section
/-! DEFINITION. The two parameters of 00_scope.md R8 that are functions, `ACR_OF_CSTATE` and `EBARG_PACK`, as plain
data: a choice of bit fields, which is how a chip would lay a word out, or any function whatever, as its table. -/

namespace Sys2Proof.Machine

/-- `ACR_OF_CSTATE` (R8, R25): where the active ACR sits inside `CSTATE`. -/
inductive CstateLayout (xlen : Nat) where
  /-- The number in the `len` bits from bit `lo` on. A word whose field is not below `NACR` gives `other`: the
  parameter is a function to ACR numbers, whatever the word. -/
  | field (lo len other : Nat)
  /-- Any function: the words listed, with their values (the first row of a word counts), and one value for the
  rest. -/
  | table (rows : List (Word xlen × Nat)) (other : Nat)
deriving DecidableEq, Repr

/-- The ACR number a layout reads in a word, on a machine of `nacr` ACRs. -/
def CstateLayout.acrOf {xlen : Nat} (nacr : Nat) (v : Word xlen) : CstateLayout xlen → Nat
  | .field lo len other => if (v.extractLsb' lo len).toNat < nacr then (v.extractLsb' lo len).toNat else other
  | .table rows other => (rows.lookup v).getD other

/-- Every value is an ACR number below `NACR`, as the type R8 gives the parameter says. -/
def CstateLayout.wf {xlen : Nat} (nacr : Nat) : CstateLayout xlen → Bool
  | .field _ _ other => decide (other < nacr)
  | .table rows other => rows.all (fun e => decide (e.2 < nacr)) && decide (other < nacr)

/-- `EBARG_PACK` (R8, R83, R84): how three 16-bit items share a word. -/
inductive EbargPacking (xlen : Nat) where
  /-- Each item in the sixteen bits from its place on, every other bit zero. -/
  | fields (at0 at1 at2 : Nat)
  /-- Any function: the items listed (item 2, 1 and 0 side by side), with their words, and one word for the rest. -/
  | table (rows : List (BitVec 48 × Word xlen)) (other : Word xlen)
deriving DecidableEq, Repr

/-- The packing R83 and R84 recommend: item 0 in bits 15:0, item 1 in bits 31:16, item 2 in bits 47:32 (D21). -/
def EbargPacking.recommended {xlen : Nat} : EbargPacking xlen := .fields 0 16 32

/-- The word that holds three items. -/
def EbargPacking.pack {xlen : Nat} (i0 i1 i2 : BitVec 16) : EbargPacking xlen → Word xlen
  | .fields at0 at1 at2 => i0.setWidth xlen <<< at0 ||| i1.setWidth xlen <<< at1 ||| i2.setWidth xlen <<< at2
  | .table rows other => (rows.lookup (i2 ++ i1 ++ i0)).getD other

end Sys2Proof.Machine
end

