-- ==== Sys2Proof/Machine/SsrTable.lean ====
section
/-! DEFINITION. The SSR register list: identifiers, access classes and behaviour classes of the 71 rows
(10_state.md R21 to R23, R30, R33 to R119, summary table of section 7), and the identifiers they define. -/

namespace Sys2Proof.Machine

/-- The Access column (R23). -/
inductive Access where
  | rw | ro | wo
deriving DecidableEq, Repr

/-- The five identification registers whose values are the `CONST_` parameters (R8, R30). -/
inductive ConstName where
  | lxlcid | vendor | version | lcfr | dbgid
deriving DecidableEq, Repr

/-- The behaviour classes of R30: constant, counter, scratch, latent, live control. -/
inductive SsrClass where
  | k (c : ConstName) | t | s | l | x
deriving DecidableEq, Repr

/-- Which identifiers a row of the tables stands for (R22, R69): one base identifier, `mgr(n, xx)` for every manager
ACR `n`, or `mgr(1, xx)` only. -/
inductive Place where
  | base (id : SsrId) | eachAcr (xx : BitVec 8) | acr1Only (xx : BitVec 8)
deriving DecidableEq, Repr

/-- One row of the register list (10_state.md section 7). -/
structure SsrRow where
  place : Place
  name : String
  access : Access
  cls : SsrClass
deriving DecidableEq, Repr

/-- `mgr(n, xx)` of R22: the identifier `0x n f xx`, zero-extended to 24 bits. -/
def mgr (n : BitVec 4) (xx : BitVec 8) : SsrId := (n ++ 0xF#4 ++ xx).setWidth 24

/-- `IsManager(id)` of R22. -/
def isManager (id : SsrId) : Bool := id.extractLsb' 16 8 == 0#8 && id.extractLsb' 8 4 == 0xF#4

/-- `FamilyOf(id)` of R22: the `n` of a manager identifier. -/
def familyOf (id : SsrId) : BitVec 4 := id.extractLsb' 12 4

/-- `NumberOf(id)` of R22: the `xx` of a manager identifier. -/
def numberOf (id : SsrId) : BitVec 8 := id.extractLsb' 0 8

/-- The sixteen base registers (R34 to R49). -/
def baseRows : List SsrRow := [
  ⟨.base 0x000000#24, "TP", .rw, .s⟩,
  ⟨.base 0x000001#24, "GP", .rw, .s⟩,
  ⟨.base 0x000010#24, "TIME", .ro, .t⟩,
  ⟨.base 0x000020#24, "CSTATE", .rw, .x⟩,
  ⟨.base 0x000021#24, "LXLCID", .ro, .k .lxlcid⟩,
  ⟨.base 0x000022#24, "VENDOR", .ro, .k .vendor⟩,
  ⟨.base 0x000023#24, "VERSION", .ro, .k .version⟩,
  ⟨.base 0x000024#24, "LCFR", .ro, .k .lcfr⟩,
  ⟨.base 0x000025#24, "LCFR_EN", .rw, .x⟩,
  ⟨.base 0x000050#24, "LB0", .rw, .l⟩,
  ⟨.base 0x000051#24, "LB1", .rw, .l⟩,
  ⟨.base 0x000052#24, "LB2", .rw, .l⟩,
  ⟨.base 0x000053#24, "LC0", .rw, .l⟩,
  ⟨.base 0x000054#24, "LC1", .rw, .l⟩,
  ⟨.base 0x000055#24, "LC2", .rw, .l⟩,
  ⟨.base 0x000C00#24, "CYCLE", .ro, .t⟩]

/-- The nineteen manager-ACR rows (R50 to R69). -/
def managerRows : List SsrRow := [
  ⟨.eachAcr 0x00#8, "ECSTATE_ACRn", .rw, .l⟩,
  ⟨.eachAcr 0x01#8, "EVBASE_ACRn", .rw, .l⟩,
  ⟨.eachAcr 0x02#8, "TRAPNO_ACRn", .rw, .l⟩,
  ⟨.eachAcr 0x03#8, "TRAPARG0_ACRn", .rw, .l⟩,
  ⟨.eachAcr 0x05#8, "ETEMP_ACRn", .rw, .s⟩,
  ⟨.eachAcr 0x06#8, "ETEMP0_ACRn", .rw, .s⟩,
  ⟨.eachAcr 0x07#8, "ECONFIG_ACRn", .rw, .x⟩,
  ⟨.eachAcr 0x08#8, "IPENDING_ACRn", .rw, .x⟩,
  ⟨.eachAcr 0x09#8, "TOPEI_ACRn", .rw, .x⟩,
  ⟨.eachAcr 0x0A#8, "EOIEI_ACRn", .wo, .x⟩,
  ⟨.acr1Only 0x10#8, "TTBR0_ACR1", .rw, .x⟩,
  ⟨.acr1Only 0x11#8, "TTBR1_ACR1", .rw, .x⟩,
  ⟨.acr1Only 0x12#8, "TCR_ACR1", .rw, .x⟩,
  ⟨.acr1Only 0x13#8, "MAIR_ACR1", .rw, .x⟩,
  ⟨.acr1Only 0x14#8, "IOTTBR_ACR1", .rw, .x⟩,
  ⟨.acr1Only 0x15#8, "IOTCR_ACR1", .rw, .x⟩,
  ⟨.acr1Only 0x16#8, "IOMAIR_ACR1", .rw, .x⟩,
  ⟨.eachAcr 0x20#8, "TIMER_TIME_ACRn", .ro, .t⟩,
  ⟨.eachAcr 0x21#8, "TIMER_TIMECMP_ACRn", .rw, .x⟩]

/-- The seventeen words of the EBARG snapshot (R70 to R87). -/
def ebargRows : List SsrRow := [
  ⟨.eachAcr 0x40#8, "EBARG0_ACRn", .rw, .l⟩,
  ⟨.eachAcr 0x41#8, "EBARG_BPC_CUR_ACRn", .rw, .l⟩,
  ⟨.eachAcr 0x42#8, "EBARG_BPC_TGT_ACRn", .rw, .l⟩,
  ⟨.eachAcr 0x43#8, "EBARG_TPC_ACRn", .rw, .l⟩,
  ⟨.eachAcr 0x44#8, "EBARG_LRA_ACRn", .rw, .l⟩,
  ⟨.eachAcr 0x45#8, "EBARG_TQ0_ACRn", .rw, .l⟩,
  ⟨.eachAcr 0x46#8, "EBARG_TQ1_ACRn", .rw, .l⟩,
  ⟨.eachAcr 0x47#8, "EBARG_TQ2_ACRn", .rw, .l⟩,
  ⟨.eachAcr 0x48#8, "EBARG_TQ3_ACRn", .rw, .l⟩,
  ⟨.eachAcr 0x49#8, "EBARG_UQ0_ACRn", .rw, .l⟩,
  ⟨.eachAcr 0x4A#8, "EBARG_UQ1_ACRn", .rw, .l⟩,
  ⟨.eachAcr 0x4B#8, "EBARG_UQ2_ACRn", .rw, .l⟩,
  ⟨.eachAcr 0x4C#8, "EBARG_UQ3_ACRn", .rw, .l⟩,
  ⟨.eachAcr 0x4D#8, "EBARG_LB_ACRn", .rw, .l⟩,
  ⟨.eachAcr 0x4E#8, "EBARG_LC_ACRn", .rw, .l⟩,
  ⟨.eachAcr 0x4F#8, "EBARG_EXTCTX_PTR_ACRn", .rw, .l⟩,
  ⟨.eachAcr 0x50#8, "EBARG_EXTCTX_META_ACRn", .rw, .l⟩]

/-- The nineteen debug rows (R100 to R119). -/
def debugRows : List SsrRow := [
  ⟨.eachAcr 0x80#8, "DBGID_ACRn", .ro, .k .dbgid⟩,
  ⟨.eachAcr 0x90#8, "DBCR0_ACRn", .rw, .x⟩,
  ⟨.eachAcr 0x91#8, "DBVR0_ACRn", .rw, .x⟩,
  ⟨.eachAcr 0x92#8, "DBCR1_ACRn", .rw, .x⟩,
  ⟨.eachAcr 0x93#8, "DBVR1_ACRn", .rw, .x⟩,
  ⟨.eachAcr 0x94#8, "DBCR2_ACRn", .rw, .x⟩,
  ⟨.eachAcr 0x95#8, "DBVR2_ACRn", .rw, .x⟩,
  ⟨.eachAcr 0x96#8, "DBCR3_ACRn", .rw, .x⟩,
  ⟨.eachAcr 0x97#8, "DBVR3_ACRn", .rw, .x⟩,
  ⟨.eachAcr 0xA0#8, "DCCR0_ACRn", .rw, .x⟩,
  ⟨.eachAcr 0xA1#8, "DCVR0_ACRn", .rw, .x⟩,
  ⟨.eachAcr 0xB0#8, "DWCR0_ACRn", .rw, .x⟩,
  ⟨.eachAcr 0xB1#8, "DWVR0_ACRn", .rw, .x⟩,
  ⟨.eachAcr 0xB2#8, "DWCR1_ACRn", .rw, .x⟩,
  ⟨.eachAcr 0xB3#8, "DWVR1_ACRn", .rw, .x⟩,
  ⟨.eachAcr 0xB4#8, "DWCR2_ACRn", .rw, .x⟩,
  ⟨.eachAcr 0xB5#8, "DWVR2_ACRn", .rw, .x⟩,
  ⟨.eachAcr 0xB6#8, "DWCR3_ACRn", .rw, .x⟩,
  ⟨.eachAcr 0xB7#8, "DWVR3_ACRn", .rw, .x⟩]

/-- The whole register list, 71 rows. -/
def ssrTable : List SsrRow := baseRows ++ managerRows ++ ebargRows ++ debugRows

/-- Whether the row's place takes in the identifier (R22, R69). -/
def Place.names (p : Place) (id : SsrId) : Bool :=
  match p with
  | .base k => id == k
  | .eachAcr xx => isManager id && numberOf id == xx
  | .acr1Only xx => isManager id && familyOf id == 1#4 && numberOf id == xx

/-- The row an identifier names on a machine of `nacr` manager ACRs, if any: `Defined(id)` of R33 is that there is
one, and its access class and behaviour class are `Access(id)` and `Class(id)` of R28 and R29. -/
def findRow (nacr : Nat) (id : SsrId) : Option SsrRow :=
  if isManager id && decide (nacr ≤ (familyOf id).toNat) then none
  else ssrTable.find? (fun r => r.place.names id)

end Sys2Proof.Machine
end

