-- ==== Sys2Proof/Config.lean ====
section
/-! DEFINITION. The parameters of 00_scope.md R8 as a record, which the whole machine takes as an argument; the
machine's own choice of them (free); and the free values: draws and reset values. Every opaque constant has no body:
no proof can see what it is. -/

namespace Sys2Proof

open Machine

/-- `OTHER_ACR_POLICY` (R8, R24, D6): what a manager-family access from an ACR other than 0 and 1 does. -/
inductive OtherAcrPolicy where
  | ignore | raise
deriving DecidableEq, Repr

/-- `ENDIAN` (R8, R133, D15): no rule reads it. -/
inductive Endian where
  | little | big
deriving DecidableEq, Repr

/-- The parameters of R8, all as plain data. They are fixed for a machine and none has a value in the source; every
state is a state of one `Config` (log 2), so a claim about every state holds for every value of them. -/
structure Config where
  /-- `XLEN`, the width of every SSR value (R5, R6). -/
  xlen : Nat
  /-- `NACR`, the number of manager ACRs (R7). -/
  nacr : Nat
  /-- `OTHER_ACR_POLICY` (R24), where the platform profile is known; `none` where it is not (R177, D6). -/
  otherAcrPolicy : Option OtherAcrPolicy
  /-- The index type of `GPR` (R8, R26): the numbers below a count, or every natural number where it is `none`
  (log 4). -/
  gprCount : Option Nat
  /-- `C_SSRID_WIDTH`, the width of the compact code (R154). -/
  cSsridWidth : Nat
  /-- `C_SSRID_REMAP` (R154): a finite partial function, as its list of (code, identifier) pairs. -/
  cSsridRemap : List (Nat × SsrId)
  constLxlcid : Word xlen
  constVendor : Word xlen
  constVersion : Word xlen
  constLcfr : Word xlen
  /-- `CONST_DBGID(n)` (R100), for each of the sixteen families an identifier can express. -/
  constDbgid : Vector (Word xlen) 16
  /-- `STABLE_EXTRA` (R30): class L identifiers whose read returns the stored value. -/
  stableExtra : List SsrId
  /-- `ACR_OF_CSTATE` (R25; log 13). -/
  cstateLayout : CstateLayout xlen
  /-- `RESET_ACR` (R32). -/
  resetAcr : Nat
  /-- `RESET_PC` (R32). -/
  resetPc : Word xlen
  endian : Endian
  /-- `EBARG_PACK` (R83, R84; log 24). -/
  ebargPacking : EbargPacking xlen
  /-- `CYCLE_IS_INSTRET` (R49, D23): recorded for the reader; a read of `CYCLE` is a draw either way. -/
  cycleIsInstret : Bool
deriving DecidableEq, Repr

/-- The policy the machine runs under: the platform profile's, and `raise` where the profile is not known (the row of
R177, D6). -/
def Config.policy (c : Config) : OtherAcrPolicy := c.otherAcrPolicy.getD .raise

/-- Whether a number is in the index type of `GPR` (R8, R26). -/
def Config.hasGpr (c : Config) (i : Nat) : Bool :=
  match c.gprCount with
  | none => true
  | some n => decide (i < n)

/-- The constraints R8 puts on the parameters: `XLEN >= 48`, `2 <= NACR <= 16`, `C_SSRID_WIDTH` below 16, the remap's
codes below `2^C_SSRID_WIDTH` and its identifiers defined, `STABLE_EXTRA` within class L, `ACR_OF_CSTATE` and `RESET_ACR` below
`NACR`. -/
def Config.wf (c : Config) : Bool :=
  decide (48 ≤ c.xlen) && decide (2 ≤ c.nacr) && decide (c.nacr ≤ 16) && decide (c.cSsridWidth < 16) &&
  decide (c.resetAcr < c.nacr) && c.cstateLayout.wf c.nacr &&
  c.cSsridRemap.all (fun e => decide (e.1 < 2 ^ c.cSsridWidth) && (findRow c.nacr e.2).isSome) &&
  c.stableExtra.all (fun id => (findRow c.nacr id).any (fun r => r.cls == .l))

/-- What the spec says of the parameters where no profile is known: the policy is not known (R2, R177), and
`STABLE_EXTRA` is "empty by default" (R8). -/
def Config.NoProfile (c : Config) : Prop := c.otherAcrPolicy = none ∧ c.stableExtra = []

/-- The least machine the constraints of R8 admit: it shows that they can be met, and nothing else uses it. -/
def Config.least : Config where
  xlen := 48
  nacr := 2
  otherAcrPolicy := none
  gprCount := none
  cSsridWidth := 0
  cSsridRemap := []
  constLxlcid := 0
  constVendor := 0
  constVersion := 0
  constLcfr := 0
  constDbgid := Vector.replicate 16 0
  stableExtra := []
  cstateLayout := .field 0 4 0
  resetAcr := 0
  resetPc := 0
  endian := .little
  ebargPacking := .recommended
  cycleIsInstret := false

/-- `ACR_OF_CSTATE` (R8, R25). -/
def Config.acrOfCstate (c : Config) (v : Word c.xlen) : Nat := c.cstateLayout.acrOf c.nacr v

/-- `EBARG_PACK` (R8, R83, R84): no instruction computes it, since the snapshot is a trap's (log 24). -/
def Config.ebargPack (c : Config) (i0 i1 i2 : BitVec 16) : Word c.xlen := c.ebargPacking.pack i0 i1 i2

/-- Every ACR that can be active has a `CSTATE` value that holds it, so that a read of `CSTATE` can return one
(R25, R28; DEDUCED, log 13). -/
def Config.HoldsEveryAcr (c : Config) : Prop := ∀ a, a < c.nacr → ∃ v, c.acrOfCstate v = a

/-- What is known of the machine's own parameters: R8's constraints, that `CSTATE` can hold every ACR, and that no
profile is known (log 2). -/
def Config.Admitted (c : Config) : Prop := c.wf = true ∧ c.HoldsEveryAcr ∧ c.NoProfile

/-- A free value: some configuration of which that is known. Lean asks for a member of a
type before it admits an opaque constant of it; the argument is that member and says nothing of which configuration
the constant is. -/
opaque Config.chipChoice [Inhabited { c : Config // c.Admitted }] : { c : Config // c.Admitted }

theorem Config.least_holdsEveryAcr : Config.least.HoldsEveryAcr := fun a ha =>
  ⟨BitVec.ofNat 48 a, (by decide : ∀ a, a < 2 → Config.least.acrOfCstate (BitVec.ofNat 48 a) = a) a ha⟩

/-- The machine's parameters with what is known of them. -/
def Config.chipAdmitted : { c : Config // c.Admitted } :=
  @Config.chipChoice ⟨⟨Config.least, by decide, Config.least_holdsEveryAcr, rfl, rfl⟩⟩

/-- The machine's parameters, which `State.reset` holds. -/
def Config.chip : Config := Config.chipAdmitted.1

theorem Config.chip_wf : Config.chip.wf = true := Config.chipAdmitted.2.1

theorem Config.chip_holdsEveryAcr : Config.chip.HoldsEveryAcr := Config.chipAdmitted.2.2.1

theorem Config.chip_noProfile : Config.chip.NoProfile := Config.chipAdmitted.2.2.2

/-- `draw(N)` of R9 at XLEN bits: the value of the `k`-th draw, under no law (log 3). -/
opaque Config.draw (c : Config) (k : Nat) : Word c.xlen

/-- The value a general register holds at reset; the spec gives none (R220; DESIGN CHOICE, log 5). -/
opaque Config.resetGpr (c : Config) (i : Nat) : Word c.xlen

/-- The value an SSR holds at reset, by identifier: "unspecified", a free initial value, never zero by default
(R32, R220; DESIGN CHOICE, log 6). -/
opaque Config.resetSsr (c : Config) (id : Nat) : Word c.xlen

/-- The draws of `CSTATE` that R28 allows on a machine of parameters `c`: `word k a` is the `k`-th draw made while ACR
`a` is active, and it holds `a` if any word does. -/
structure CstateDraws (c : Config) where
  word : Nat → Nat → Word c.xlen
  acrOf_word : ∀ k a, (∃ v, c.acrOfCstate v = a) → c.acrOfCstate (word k a) = a

/-- A word that holds an ACR, found by trying every word; it shows that there are such draws, and nothing else uses
it. -/
def Config.someCstate (c : Config) (a : Nat) : Word c.xlen :=
  BitVec.ofNat c.xlen
    (((List.range (2 ^ c.xlen)).find? (fun n => c.acrOfCstate (BitVec.ofNat c.xlen n) == a)).getD 0)

theorem Config.acrOfCstate_someCstate {c : Config} {a : Nat} (h : ∃ v, c.acrOfCstate v = a) :
    c.acrOfCstate (c.someCstate a) = a := by
  obtain ⟨v, hv⟩ := h
  unfold Config.someCstate
  cases hf : (List.range (2 ^ c.xlen)).find? (fun n => c.acrOfCstate (BitVec.ofNat c.xlen n) == a) with
  | some n => simpa using List.find?_some hf
  | none =>
    rw [List.find?_eq_none] at hf
    exact absurd (by simpa using hv) (hf v.toNat (List.mem_range.mpr v.isLt))

/-- A free value: the draws of `CSTATE` (log 13). -/
opaque Config.cstateChoice (c : Config) [Inhabited (CstateDraws c)] : CstateDraws c

/-- The machine's draws of `CSTATE`: unknown but for their law. -/
def Config.cstateDraws (c : Config) : CstateDraws c :=
  @Config.cstateChoice c ⟨fun _ => c.someCstate, fun _ _ => Config.acrOfCstate_someCstate⟩

/-- The `k`-th value a read of `CSTATE` returns while ACR `a` is active (R28). -/
def Config.drawCstate (c : Config) (k a : Nat) : Word c.xlen := c.cstateDraws.word k a

/-- Every value a read of `CSTATE` returns satisfies `ACR_OF_CSTATE(value) = acr` (R25). -/
theorem Config.acrOfCstate_drawCstate {c : Config} (k : Nat) {a : Nat} (h : ∃ v, c.acrOfCstate v = a) :
    c.acrOfCstate (c.drawCstate k a) = a :=
  c.cstateDraws.acrOf_word k a h

end Sys2Proof
end

