-- ==== Sys2Proof/Syntax.lean ====
section
/-! DEFINITION. The six instructions as terms (R153, R160): a mnemonic, its register operands, and its identifier or
compact code. -/

namespace Sys2Proof

/-- The instruction terms, in the spec's operand order (R160). `rd` and `rs` are indices into the general register
file (R26); an identifier is held in its 24-bit normal form, and `WellFormed` says which terms can be encoded (R156).
There is no other form (R159, R162). -/
inductive Instr where
  /-- `SSRGET rd, id` (R171), 32 bits. -/
  | ssrget (rd : Nat) (id : SsrId)
  /-- `SSRSET id, rs` (R172), 32 bits. -/
  | ssrset (id : SsrId) (rs : Nat)
  /-- `SSRSWAP rd, id, rs` (R173), 32 bits. -/
  | ssrswap (rd : Nat) (id : SsrId) (rs : Nat)
  /-- `HL.SSRGET rd, id` (R174), 48 bits. -/
  | hlSsrget (rd : Nat) (id : SsrId)
  /-- `HL.SSRSET id, rs` (R175), 48 bits. -/
  | hlSsrset (id : SsrId) (rs : Nat)
  /-- `C.SSRGET rd, #code` (R176), 16 bits. -/
  | cSsrget (rd : Nat) (code : Nat)
deriving DecidableEq, Repr

/-- The general register an instruction names as its destination (R170). -/
def Instr.destOf : Instr → Option Nat
  | .ssrget rd _ => some rd
  | .ssrset _ _ => none
  | .ssrswap rd _ _ => some rd
  | .hlSsrget rd _ => some rd
  | .hlSsrset _ _ => none
  | .cSsrget rd _ => some rd

/-- The SSR an instruction names for writing (R170, R158). -/
def Instr.writtenSsr : Instr → Option SsrId
  | .ssrget _ _ => none
  | .ssrset id _ => some id
  | .ssrswap _ id _ => some id
  | .hlSsrget _ _ => none
  | .hlSsrset id _ => some id
  | .cSsrget _ _ => none

end Sys2Proof
end

