-- ==== Sys2Proof/WellFormed.lean ====
section
/-! DEFINITION. Which terms can be encoded (R156, R160, R161): the check that rejects an ill-formed term before it
executes. -/

namespace Sys2Proof

/-- `fits12(id24)` of R156: the identifier fits the 12-bit field, `id24[23:12] = 0`. -/
def fits12 (id : SsrId) : Bool := id.extractLsb' 12 12 == 0#12

/-- The well-formedness check: a 32-bit form's identifier fits in 12 bits (R156), a 48-bit form takes every 24-bit
identifier (R156, D26), a compact code is below `2^C_SSRID_WIDTH` (R160), and `rd` and `rs` are indices into `GPR`
(R26, R160; log 4). -/
def Instr.wellFormed (c : Config) : Instr → Bool
  | .ssrget rd id => fits12 id && c.hasGpr rd
  | .ssrset id rs => fits12 id && c.hasGpr rs
  | .ssrswap rd id rs => fits12 id && c.hasGpr rd && c.hasGpr rs
  | .hlSsrget rd _ => c.hasGpr rd
  | .hlSsrset _ rs => c.hasGpr rs
  | .cSsrget rd code => decide (code < 2 ^ c.cSsridWidth) && c.hasGpr rd

end Sys2Proof
end

