-- ==== Sys2Proof/Decode.lean ====
section
/-! DEFINITION. The binary side of the six instructions, as far as the spec gives it: a byte decoder that refuses every
word (R153, R161), the fields of each form with their assembly into a term and back (R151, R152, R154, R155), and the
lengths (R150). The spec gives no bit pattern and no field position for any instruction. -/

namespace Sys2Proof

/-- Why a byte sequence is not an instruction. -/
inductive DecodeError where
  /-- `UnknownEncoding` (R207, R161): no bit pattern of any instruction is in the source. -/
  | unknownEncoding
deriving DecidableEq, Repr

/-- The byte decoder (R153, D12): "a model's byte decoder, if it has one, refuses every word". On an encoding it knew
it would answer the term and the bytes that follow it. -/
def decode (_bytes : List Byte) : Except DecodeError (Instr × List Byte) := .error .unknownEncoding

/-- The fields of one instruction as R151, R152 and R154 give them: which of the six it is, its register operands
(their fields' widths and places are not in the source), and its identifier field at the width the form has. The
compact code has `C_SSRID_WIDTH < 16` bits (R8), so 15 bits hold it. -/
inductive Form where
  | ssrget (rd : Nat) (ssrId : BitVec 12)
  | ssrset (ssrId : BitVec 12) (rs : Nat)
  | ssrswap (rd : Nat) (ssrId : BitVec 12) (rs : Nat)
  | hlSsrget (rd : Nat) (ssrId : BitVec 24)
  | hlSsrset (ssrId : BitVec 24) (rs : Nat)
  | cSsrget (rd : Nat) (ssrid : BitVec 15)
deriving DecidableEq, Repr

/-- `id24 = zext_24(SSR_ID[11:0])` (R21, R155, D3): no sign extension, scaling or shift. -/
def idOf12 (field : BitVec 12) : SsrId := field.setWidth 24

/-- The term that an instruction with these fields is (R155). -/
def decodeForm : Form → Instr
  | .ssrget rd f => .ssrget rd (idOf12 f)
  | .ssrset f rs => .ssrset (idOf12 f) rs
  | .ssrswap rd f rs => .ssrswap rd (idOf12 f) rs
  | .hlSsrget rd f => .hlSsrget rd f
  | .hlSsrset f rs => .hlSsrset f rs
  | .cSsrget rd f => .cSsrget rd f.toNat

/-- The fields that hold a term, each cut to the width its form gives it (R151, R152, R154). -/
def formOf : Instr → Form
  | .ssrget rd id => .ssrget rd (id.setWidth 12)
  | .ssrset id rs => .ssrset (id.setWidth 12) rs
  | .ssrswap rd id rs => .ssrswap rd (id.setWidth 12) rs
  | .hlSsrget rd id => .hlSsrget rd id
  | .hlSsrset id rs => .hlSsrset id rs
  | .cSsrget rd code => .cSsrget rd (BitVec.ofNat 15 code)

/-- The encoder, as far as the spec gives one: the fields of a well-formed term; a term that is not well-formed cannot
be encoded (R156, R160). -/
def encode (c : Config) (i : Instr) : Option Form := if i.wellFormed c then some (formOf i) else none

/-- The length of a form in bits (R150). -/
def Form.lengthBits : Form → Nat
  | .ssrget _ _ => 32
  | .ssrset _ _ => 32
  | .ssrswap _ _ _ => 32
  | .hlSsrget _ _ => 48
  | .hlSsrset _ _ => 48
  | .cSsrget _ _ => 16

/-- The length of a term in 8-bit bytes: 4, 6 or 2 (R150, R157, R27). -/
def Instr.lengthBytes : Instr → Nat
  | .ssrget _ _ => 4
  | .ssrset _ _ => 4
  | .ssrswap _ _ _ => 4
  | .hlSsrget _ _ => 6
  | .hlSsrset _ _ => 6
  | .cSsrget _ _ => 2

/-- One 16-bit parcel as two bytes, the lower address first. -/
def parcelBytes (e : Endian) (p : BitVec 16) : List Byte :=
  match e with
  | .little => [p.extractLsb' 0 8, p.extractLsb' 8 8]
  | .big => [p.extractLsb' 8 8, p.extractLsb' 0 8]

/-- The six bytes of an instruction of `nbits` bits whose bits are `w`, bits above `nbits` zero, as three 16-bit
parcels, the first at the lowest address (byte order `ENDIAN`, R133; the parcels are the model's, log 10). -/
def tableBytes (e : Endian) (nbits w : Nat) : List Byte :=
  let v : BitVec 48 := BitVec.ofNat 48 (w % 2 ^ nbits)
  parcelBytes e (v.extractLsb' 0 16) ++ parcelBytes e (v.extractLsb' 16 16) ++ parcelBytes e (v.extractLsb' 32 16)

/-- What the byte decoder reads from an instruction of the opcode table's numbering: never a term, since the source
gives no bit pattern (R153). -/
def decodeTableWord (nbits w : Nat) : Option Instr :=
  match decode (tableBytes Config.chip.endian nbits w) with
  | .ok (i, _) => some i
  | .error _ => none

end Sys2Proof
end

