-- ==== Sys2Proof/Machine/State.lean ====
section
/-! DEFINITION. The machine's state as plain data, its stops, and the state after reset. -/

namespace Sys2Proof.Machine

/-- The instruction bytes by address (R161: a byte sequence presented for decoding), addresses strictly rising. An
address that is not listed holds no byte (log 10). No instruction accesses it (R131). -/
abbrev Memory := List Host.Cell

/-- A program (R227, D31): terms placed at consecutive addresses from a base. -/
structure Program (c : Config) where
  base : Word c.xlen
  terms : List Instr
deriving DecidableEq, Repr

/-- What changes as a machine of parameters `c` runs. A register file is the list of the registers written since
reset, keys strictly rising; a register that is not listed holds its reset value (log 8). -/
structure StateOf (c : Config) where
  /-- The address of the instruction being executed (R27). -/
  pc : Word c.xlen
  /-- The number of the active ACR (R25). -/
  acr : Nat
  /-- The general registers `x[i]` by index (R26). -/
  gpr : List (Nat × Word c.xlen)
  /-- The SSR file by 24-bit identifier (R20). -/
  ssr : List (Nat × Word c.xlen)
  /-- The MODEL's own: how many free values the run has used (R9's `draw`; log 3). -/
  draws : Nat
  /-- The MODEL's own: the program the machine runs (R227; log 9). -/
  program : Program c
  /-- The MODEL's own: instruction bytes (R161; log 10). -/
  mem : Memory
deriving DecidableEq, Repr

/-- The machine's state: the parameters of R8, fixed for the machine (log 2), and what changes as it runs. -/
structure State where
  cfg : Config
  body : StateOf cfg
deriving DecidableEq, Repr

/-- A state of a machine of parameters `c`, as a state. -/
abbrev StateOf.state {c : Config} (s : StateOf c) : State := ⟨c, s⟩

/-- The faults of R207, each terminal and without a state change, and the end of a run (R227). All are safe: the
model stops where the chip may go on. -/
inductive Fault where
  /-- `SsrUndefined(id)`: raised by `ssrRead` and `ssrWrite` for an identifier no table lists (R88, D4). Safe. -/
  | ssrUndefined (id : SsrId)
  /-- `SsrPrivilege(id, acr)`: raised by `ssrRead` and `ssrWrite` for a manager identifier while `acr >= 2` and the
  policy is `raise` or not known (R24, R177, D6). Safe. -/
  | ssrPrivilege (id : SsrId) (acr : Nat)
  /-- `SsrReadOfWO(id)`: raised by `ssrRead` for a write-only register (R23, R59, D5). Safe. -/
  | ssrReadOfWO (id : SsrId)
  /-- `SsrWriteOfRO(id)`: raised by `ssrWrite` for a read-only register (R23, D5). Safe. -/
  | ssrWriteOfRO (id : SsrId)
  /-- The run has ended: raised by `fetch` when `pc` is just past the program's last term (R227, D31; log 12). Safe:
  the chip would go on. -/
  | endOfRun
deriving DecidableEq, Repr

/-- The refusals of R207 and the model's own. All are safe. -/
inductive Refusal where
  /-- An instruction without a meaning yet: raised by no arm of `exec`. Safe. -/
  | notModelled (mnemonic : String)
  /-- `LiveControlWrite(id)`: raised by `ssrWrite` for a class X register (R29, R30, D19, D20). Safe. -/
  | liveControlWrite (id : SsrId)
  /-- `CRemapMissing(code)`: raised by `C.SSRGET` for a code outside `C_SSRID_REMAP` (R176, D13). Safe. -/
  | cRemapMissing (code : Nat)
  /-- `UnknownEncoding`: raised by `fetch` when the byte decoder refuses the bytes at `pc` (R153, R161, D12). Safe. -/
  | unknownEncoding
  /-- An ill-formed term, rejected before execution: raised by `fetch` (R156, R161; log 11). Safe. -/
  | illFormedTerm
  /-- Neither a term nor a byte stands at `pc`, and `pc` is not the end of the program: raised by `fetch`
  (log 12). Safe. -/
  | noInstruction (pc : Nat)
deriving DecidableEq, Repr

/-- The state after reset (R32, R220) of a machine of parameters `c`: `acr` and `pc` are the parameters `RESET_ACR`
and `RESET_PC`, no register has been written since, and no program and no byte has been placed. -/
def StateOf.reset (c : Config) : StateOf c where
  pc := c.resetPc
  acr := c.resetAcr
  gpr := []
  ssr := []
  draws := 0
  program := { base := c.resetPc, terms := [] }
  mem := []

/-- The state after reset. The parameters themselves are free (log 2). -/
def State.reset : State := (StateOf.reset Config.chip).state

end Sys2Proof.Machine
end

