-- ==== Sys2Proof/Machine/Ops.lean ====
section
/-! DEFINITION. The named operations over registers, free values and instruction bytes, how an instruction stops
(R207), and the two SSR access primitives (R28, R29). -/

namespace Sys2Proof.Machine

variable {c : Config}

/-- What an operation answers: a result, a fault or a refusal. -/
abbrev Answer (α : Type) := Host.Outcome α Fault Refusal

/-- `raise <Name>(info)` of R9: the instruction ends here with no state change. It is the spec's only exceptional
event: the source has no trap entry and no trap return (R192, R193; log 20). -/
def raise {α : Type} (f : Fault) : Answer α := .fault f

/-- `refuse <Name>` of R9: the spec gives this no meaning. -/
def refuse {α : Type} (r : Refusal) : Answer α := .refused r

/-- The second operation on the first one's result, unless the first one stopped. -/
def chain {α β : Type} (a : Answer α) (f : α → Answer β) : Answer β :=
  match a with
  | .next x => f x
  | .fault e => .fault e
  | .refused r => .refused r

/-! ## Registers -/

/-- `x[i]` (R9, R26). A register not written since reset holds its reset value (R220; log 5). -/
def StateOf.readGpr (s : StateOf c) (i : Nat) : Word c.xlen := (cellAt s.gpr i).getD (c.resetGpr i)

/-- `x[i] <- v` (R9, R26): no hardwired register, no aliasing (log 4). -/
def StateOf.writeGpr (s : StateOf c) (i : Nat) (v : Word c.xlen) : StateOf c := { s with gpr := putCell s.gpr i v }

/-- `ssr[id]` (R9, R20): the stored value. An SSR not written since reset holds its reset value (R32; log 6). -/
def StateOf.storedSsr (s : StateOf c) (id : SsrId) : Word c.xlen :=
  (cellAt s.ssr id.toNat).getD (c.resetSsr id.toNat)

/-- `ssr[id] <- v` (R9, R29): all XLEN bits (D28). -/
def StateOf.storeSsr (s : StateOf c) (id : SsrId) (v : Word c.xlen) : StateOf c :=
  { s with ssr := putCell s.ssr id.toNat v }

/-- `pc <- pc + len`, modulo `2^XLEN` (R27, R170). -/
def StateOf.advance (s : StateOf c) (len : Nat) : StateOf c := { s with pc := s.pc + BitVec.ofNat c.xlen len }

/-! ## Free values (R9; log 3) -/

/-- The state after one more free value has been used. -/
def StateOf.useDraw (s : StateOf c) : StateOf c := { s with draws := s.draws + 1 }

/-- `draw(XLEN)`: a value under no law. -/
def draw (s : StateOf c) : Word c.xlen × StateOf c := (c.draw s.draws, s.useDraw)

/-- A draw of `CSTATE` with `ACR_OF_CSTATE(v) = acr` (R25, R28; log 13). -/
def drawCstate (s : StateOf c) : Word c.xlen × StateOf c := (c.drawCstate s.draws s.acr, s.useDraw)

/-! ## Instruction bytes (R161; log 10) -/

/-- Whether the instruction bytes are in their canonical form: addresses strictly rising and inside the XLEN-bit
address space (R132). -/
def Memory.wf (xlen : Nat) (m : Memory) : Bool := rising m && m.all (fun e => decide (e.1 < 2 ^ xlen))

/-- The byte at an address, if one has been placed there. -/
def Memory.read {xlen : Nat} (m : Memory) (a : Word xlen) : Option Byte := cellAt m a.toNat

/-- Places a byte at an address. -/
def Memory.write {xlen : Nat} (m : Memory) (a : Word xlen) (b : Byte) : Memory := putCell m a.toNat b

/-- Places bytes at consecutive addresses, modulo `2^XLEN`. -/
def Memory.writeBytes {xlen : Nat} (m : Memory) (a : Word xlen) : List Byte → Memory
  | [] => m
  | b :: bs => Memory.writeBytes (m.write a b) (a + 1) bs

/-- At most `n` bytes from an address on, up to the first address that holds none. -/
def Memory.bytesFrom {xlen : Nat} (m : Memory) : Nat → Word xlen → List Byte
  | 0, _ => []
  | n + 1, a =>
    match m.read a with
    | none => []
    | some b => b :: Memory.bytesFrom m n (a + 1)

/-! ## The SSR access primitives -/

/-- `MayAccessManager(acr)` of R24: ACR0 and ACR1 reach every manager family (D7). -/
def mayAccessManager (acr : Nat) : Bool := acr == 0 || acr == 1

/-- The identifier of `CSTATE` (R37). -/
def cstateId : SsrId := 0x000020#24

/-- `CONST_<name>(id)` (R8, R28): the value of an identification register. -/
def constValue (c : Config) (n : ConstName) (id : SsrId) : Word c.xlen :=
  match n with
  | .lxlcid => c.constLxlcid
  | .vendor => c.constVendor
  | .version => c.constVersion
  | .lcfr => c.constLcfr
  | .dbgid => c.constDbgid[(familyOf id).toNat]'(familyOf id).isLt

/-- What a permitted read returns, by behaviour class (R28, R30). -/
def readByClass (r : SsrRow) (id : SsrId) (s : StateOf c) : Word c.xlen × StateOf c :=
  match r.cls with
  | .k n => (constValue c n id, s)
  | .t => draw s
  | .s => (s.storedSsr id, s)
  | .l => if id ∈ c.stableExtra then (s.storedSsr id, s) else draw s
  | .x => if id = cstateId then drawCstate s else draw s

/-- `SsrRead(id)` of R28, with its checks in R28's order (D30); a policy that is not known counts as `raise`
(R177, D6). -/
def ssrRead (id : SsrId) (s : StateOf c) : Answer (Word c.xlen × StateOf c) :=
  match findRow c.nacr id with
  | none => raise (.ssrUndefined id)
  | some r =>
    if isManager id && !mayAccessManager s.acr then
      match c.policy with
      | .raise => raise (.ssrPrivilege id s.acr)
      | .ignore => .next (draw s)
    else if r.access = .wo then raise (.ssrReadOfWO id)
    else .next (readByClass r id s)

/-- What a permitted write does, by behaviour class (R29, R30). Every class K and class T register is read-only, so
`SsrWriteOfRO` has stopped the write of one before this (R29: unreachable). -/
def writeByClass (r : SsrRow) (id : SsrId) (v : Word c.xlen) (s : StateOf c) : Answer (StateOf c) :=
  match r.cls with
  | .s => .next (s.storeSsr id v)
  | .l => .next (s.storeSsr id v)
  | .x => refuse (.liveControlWrite id)
  | .k _ => raise (.ssrWriteOfRO id)
  | .t => raise (.ssrWriteOfRO id)

/-- `SsrWrite(id, v)` of R29, with its checks in R29's order (D30); a policy that is not known counts as `raise`
(R177, D6). -/
def ssrWrite (id : SsrId) (v : Word c.xlen) (s : StateOf c) : Answer (StateOf c) :=
  match findRow c.nacr id with
  | none => raise (.ssrUndefined id)
  | some r =>
    if isManager id && !mayAccessManager s.acr then
      match c.policy with
      | .raise => raise (.ssrPrivilege id s.acr)
      | .ignore => .next s
    else if r.access = .ro then raise (.ssrWriteOfRO id)
    else writeByClass r id v s

end Sys2Proof.Machine
end

