-- ==== Sys2Proof/Machine/Operands.lean ====
section
/-! DEFINITION. The operand forms: how a term names an SSR (R155), the moves between an SSR and a general register
that the access instructions share (R170), and the packing of the snapshot words (R83, R84). -/

namespace Sys2Proof.Machine

variable {c : Config}

/-- `zext_24(SSR_ID[11:0])`: what the 12-bit field of a 32-bit form names (R21, R155). For a well-formed term it is
the term's own identifier. -/
def named12 (id : SsrId) : SsrId := idOf12 (id.setWidth 12)

/-- `C_SSRID_REMAP(code)`, where the table has an entry (R154, R176, D13). -/
def remapOf (c : Config) (code : Nat) : Option SsrId := c.cSsridRemap.lookup code

/-- `v = SsrRead(id24); x[rd] <- v; pc <- pc + len` (R171, R174, R176). -/
def readToGpr (rd : Nat) (id : SsrId) (len : Nat) (s : StateOf c) : Answer (StateOf c) :=
  chain (ssrRead id s) (fun p => .next ((p.2.writeGpr rd p.1).advance len))

/-- `SsrWrite(id24, x[rs]); pc <- pc + len` (R172, R175). -/
def writeFromGpr (id : SsrId) (rs : Nat) (len : Nat) (s : StateOf c) : Answer (StateOf c) :=
  chain (ssrWrite id (s.readGpr rs) s) (fun t => .next (t.advance len))

/-- `new = x[rs]; old = SsrRead(id24); SsrWrite(id24, new); x[rd] <- old; pc <- pc + len` (R173): `x[rs]` is taken
first, the read is tested before the write, and if either stops neither takes effect. -/
def swapWithGpr (rd : Nat) (id : SsrId) (rs : Nat) (len : Nat) (s : StateOf c) : Answer (StateOf c) :=
  let new := s.readGpr rs
  chain (ssrRead id s) (fun p =>
    chain (ssrWrite id new p.2) (fun t => .next ((t.writeGpr rd p.1).advance len)))

/-- An operation on what changes, as an operation on the state: the parameters stay as they are. -/
def onBody (s : State) (f : StateOf s.cfg → Answer (StateOf s.cfg)) : Answer State :=
  chain (f s.body) (fun t => .next t.state)

/-- The recommended reading of `EBARG_PACK` (R83, D21): item 0 in bits 15:0, item 1 in bits 31:16, item 2 in bits
47:32, upper bits zero, each the low 16 bits of its register: what `EbargPacking.recommended` gives for three
registers. No instruction computes it (log 24). -/
def packRecommended {xlen : Nat} (r0 r1 r2 : Word xlen) : Word xlen :=
  (r2.setWidth 16 ++ r1.setWidth 16 ++ r0.setWidth 16).setWidth xlen

end Sys2Proof.Machine
end

