-- ==== Sys2Proof/Machine/SsrAccess.lean ====
section
/-! DEFINITION. The meanings of the six SSR access instructions (40_ssr_access.md R170 to R177). No instruction writes
a flag, an SSR other than the one it names, or a general register other than `rd` (R170). -/

namespace Sys2Proof.Machine

/-- `SSRGET rd, id` (R171). -/
def execSsrget (rd : Nat) (id : SsrId) (s : State) : Answer State := onBody s (readToGpr rd (named12 id) 4)

/-- `SSRSET id, rs` (R172). -/
def execSsrset (id : SsrId) (rs : Nat) (s : State) : Answer State := onBody s (writeFromGpr (named12 id) rs 4)

/-- `SSRSWAP rd, id, rs` (R173). -/
def execSsrswap (rd : Nat) (id : SsrId) (rs : Nat) (s : State) : Answer State :=
  onBody s (swapWithGpr rd (named12 id) rs 4)

/-- `HL.SSRGET rd, id` (R174). -/
def execHlSsrget (rd : Nat) (id : SsrId) (s : State) : Answer State := onBody s (readToGpr rd id 6)

/-- `HL.SSRSET id, rs` (R175). -/
def execHlSsrset (id : SsrId) (rs : Nat) (s : State) : Answer State := onBody s (writeFromGpr id rs 6)

/-- `C.SSRGET rd, #code` (R176). -/
def execCSsrget (rd : Nat) (code : Nat) (s : State) : Answer State :=
  match remapOf s.cfg code with
  | none => refuse (.cRemapMissing code)
  | some id => onBody s (readToGpr rd id 2)

end Sys2Proof.Machine
end

