-- ==== Sys2Proof/Machine/Dispatch.lean ====
section
/-! DEFINITION. One arm per instruction. -/

namespace Sys2Proof.Machine

def exec (i : Instr) (s : State) : Host.Outcome State Fault Refusal :=
  match i with
  | .ssrget rd id => Sys2Proof.Machine.execSsrget rd id s
  | .ssrset id rs => Sys2Proof.Machine.execSsrset id rs s
  | .ssrswap rd id rs => Sys2Proof.Machine.execSsrswap rd id rs s
  | .hlSsrget rd id => Sys2Proof.Machine.execHlSsrget rd id s
  | .hlSsrset id rs => Sys2Proof.Machine.execHlSsrset id rs s
  | .cSsrget rd code => Sys2Proof.Machine.execCSsrget rd code s

end Sys2Proof.Machine
end

