-- ==== Sys2Proof/Machine/Fetch.lean ====
section
/-! DEFINITION. What stands at `pc`: a term of the program (R227), bytes for the decoder (R153, R161), the end of the
run (R227), or nothing; and how a program or bytes are placed. -/

namespace Sys2Proof.Machine

variable {c : Config}

/-- The terms with their addresses: each at the sum of the base and the lengths of the terms before it, modulo
`2^XLEN` (R227, R27). -/
def placed {xlen : Nat} : Word xlen → List Instr → List (Word xlen × Instr)
  | _, [] => []
  | a, i :: rest => (a, i) :: placed (a + BitVec.ofNat xlen i.lengthBytes) rest

/-- The address just past the last term (R227). -/
def endFrom {xlen : Nat} : Word xlen → List Instr → Word xlen
  | a, [] => a
  | a, i :: rest => endFrom (a + BitVec.ofNat xlen i.lengthBytes) rest

/-- Where the run of a program ends (R227). Of a program of `2^XLEN` bytes or more, which R227 says nothing about, it can
be the address of a term (DESIGN CHOICE, log 27). -/
def Program.endPc (p : Program c) : Word c.xlen := endFrom p.base p.terms

/-- The term placed at an address. In a program longer than `2^XLEN` bytes, which R227 says nothing about, two terms can
share an address; the first in the program's order is the one that stands there (DESIGN CHOICE, log 27). -/
def termAt (p : Program c) (a : Word c.xlen) : Option Instr :=
  ((placed p.base p.terms).find? (fun e => e.1 == a)).map (fun e => e.2)

/-- A term that can be encoded, or its rejection before execution (R156, R161). -/
def checkTerm (c : Config) (i : Instr) : Answer Instr := if i.wellFormed c then .next i else refuse .illFormedTerm

/-- The length in bytes of the longest instruction (R150). -/
def longestBytes : Nat := 6

/-- The instruction at `pc` (log 9, log 10, log 12). A term at `pc` runs also where `pc` is the end of the program, which
only a program of `2^XLEN` bytes or more can bring about (DESIGN CHOICE, log 27). -/
def fetch (s : StateOf c) : Answer Instr :=
  match termAt s.program s.pc with
  | some i => checkTerm c i
  | none =>
    match s.mem.bytesFrom longestBytes s.pc with
    | [] => if s.pc = s.program.endPc then raise .endOfRun else refuse (.noInstruction s.pc.toNat)
    | b :: bs =>
      match decode (b :: bs) with
      | .ok (i, _) => checkTerm c i
      | .error .unknownEncoding => refuse .unknownEncoding

/-- A program placed from a base, with `pc` at its first term (R227: the start of a run). -/
def StateOf.load (s : StateOf c) (base : Word c.xlen) (terms : List Instr) : StateOf c :=
  { s with pc := base, program := { base := base, terms := terms } }

/-- Bytes placed at `pc`, and no program there to come before them. -/
def StateOf.placeBytes (s : StateOf c) (bs : List Byte) : StateOf c :=
  { s with program := { base := s.pc, terms := [] }, mem := s.mem.writeBytes s.pc bs }

end Sys2Proof.Machine
end

