-- ==== Sys2Proof/Machine/Step.lean ====
section
/-! DEFINITION. One step: the instruction at `pc` runs. -/

namespace Sys2Proof.Machine

/-- The instruction at `pc` runs (R227). The meaning itself moves `pc` past it (R170), so the step adds nothing
around `exec`. No step is an interrupt, a trap entry or a debug event (R192, R198, R211; log 20). -/
def step (s : State) : Host.Outcome State Fault Refusal := chain (fetch s.body) (fun i => exec i s)

/-- `s` with an instruction of `nbits` bits whose bits are `w` placed at `pc` (log 10). -/
def State.withFetchWord (s : State) (nbits w : Nat) : State :=
  (s.body.placeBytes (tableBytes s.cfg.endian nbits w)).state

end Sys2Proof.Machine
end

