-- ==== Sys2Proof/Safety.lean ====
section
/-! DEFINITION. What counts as a good state and a good run: the invariant of the model, the launch premises of R223,
and the normal end of a run (R227). -/

namespace Sys2Proof.Machine

variable {c : Config}

/-- Whether an identifier names, on a machine of `nacr` ACRs, a register whose writes are stored: class S or L
(R29, R30). -/
def isStored (nacr : Nat) (id : SsrId) : Bool :=
  (findRow nacr id).any (fun r => r.cls == .s || r.cls == .l)

/-- The SSR file lists only registers whose writes are stored (R20, R29). -/
def ssrEntriesOk (s : StateOf c) : Bool :=
  s.ssr.all (fun e => decide (e.1 < 2 ^ 24) && isStored c.nacr (BitVec.ofNat 24 e.1))

/-- The general registers listed are in the index type of `GPR` (R8, R26). -/
def gprEntriesOk (s : StateOf c) : Bool := s.gpr.all (fun e => c.hasGpr e.1)

/-- The invariant: the parameters meet R8's constraints, `CSTATE` can hold every ACR (log 13), `0 <= acr < NACR` (R25), the register files and the
instruction bytes are in canonical form, the SSR file lists only registers whose writes are stored, and the general
registers only indices of `GPR`. -/
structure State.Inv (s : State) : Prop where
  cfgOk : s.cfg.wf = true
  cstateOk : s.cfg.HoldsEveryAcr
  acrLt : s.body.acr < s.cfg.nacr
  gprRising : rising s.body.gpr = true
  gprInRange : gprEntriesOk s.body = true
  ssrRising : rising s.body.ssr = true
  ssrStored : ssrEntriesOk s.body = true
  memOk : s.body.mem.wf s.cfg.xlen = true

/-- The launch premise `AcrIs(a)` of R223. -/
def AcrIs (a : Nat) (s : State) : Prop := s.body.acr = a

/-- The launch premise `ConstsAre(...)` of R223, one named constant at a time. -/
def ConstIs (n : ConstName) (id : SsrId) (v : Word c.xlen) : Prop := constValue c n id = v

/-- Whether a permitted read of the register returns the stored value: class S, or class L in `STABLE_EXTRA`
(R28). -/
def readsBack (c : Config) (id : SsrId) : Bool :=
  (findRow c.nacr id).any (fun r => r.cls == .s || (r.cls == .l && decide (id ∈ c.stableExtra)))

/-- The launch premise `SsrHolds(id, v)` of R223, for class S identifiers and members of `STABLE_EXTRA` only.
`NoFaultRecorded`, `NoInterrupt` and `NoDebugEvent` are not conditions on a state of this model: a stop ends the run,
and no step is an interrupt or a debug event (log 20). -/
def SsrHolds (id : SsrId) (v : Word c.xlen) (s : StateOf c) : Prop := readsBack c id = true ∧ s.storedSsr id = v

/-- The run has come to the address just past the program's last term (R227). A run of a program of `2^XLEN` bytes or
more, which R227 says nothing about, is not at its end there while a term stands at that address (DESIGN CHOICE,
log 27). -/
def AtEnd (s : StateOf c) : Prop := s.pc = s.program.endPc ∧ termAt s.program s.pc = none

/-- A run of `k` steps from `s` that ends normally in `t` (R227): no fault or refusal on the way. -/
def EndsNormally (k : Nat) (s t : State) : Prop := Sys2Proof.core.run k s = .next t ∧ AtEnd t.body

end Sys2Proof.Machine
end

