-- ==== Sys2Proof/Certificates/Slice0/Obligations.lean ====
section
/-! DEFINITION. The statements for the provers, from the spec's numbered rules. A free value (the spec's draw) is
never named in a conclusion: a statement says that some value is read, and the law the spec gives it, if any. -/

namespace Sys2Proof.Claims

open Sys2Proof Sys2Proof.Machine

variable {c : Config}

/-- The sixteen base identifiers, as R33 lists them. -/
def baseIds : List SsrId :=
  [0x0000#24, 0x0001#24, 0x0010#24, 0x0020#24, 0x0021#24, 0x0022#24, 0x0023#24, 0x0024#24, 0x0025#24,
   0x0050#24, 0x0051#24, 0x0052#24, 0x0053#24, 0x0054#24, 0x0055#24, 0x0C00#24]

/-- Whether a register number is in R33's `CommonXX`. -/
def commonXX (k : Nat) : Bool :=
  k ≤ 0x03 || (0x05 ≤ k && k ≤ 0x0A) || k == 0x20 || k == 0x21 || (0x40 ≤ k && k ≤ 0x50) || k == 0x80 ||
  (0x90 ≤ k && k ≤ 0x97) || k == 0xA0 || k == 0xA1 || (0xB0 ≤ k && k ≤ 0xB7)

/-- `Defined(id)`, written from R33's sets and not from the register list. -/
def definedR33 (nacr : Nat) (id : SsrId) : Bool :=
  let n := (id.extractLsb' 12 4).toNat
  let k := (id.extractLsb' 0 8).toNat
  id.extractLsb' 16 8 == 0#8 &&
  (baseIds.contains id ||
    (id.extractLsb' 8 4 == 0xF#4 && decide (n < nacr) &&
      (commonXX k || (n == 1 && 0x10 ≤ k && k ≤ 0x16))))

/-- Whether a register number is one that the tables skip for family `n`, as R88's last item lists them. -/
def skippedXX (n k : Nat) : Bool :=
  k == 0x04 || (0x0B ≤ k && k ≤ 0x0F) || (n != 1 && 0x10 ≤ k && k ≤ 0x16) || (0x17 ≤ k && k ≤ 0x1F) ||
  (0x22 ≤ k && k ≤ 0x3F) || (0x51 ≤ k && k ≤ 0x7F) || (0x81 ≤ k && k ≤ 0x8F) || (0x98 ≤ k && k ≤ 0x9F) ||
  (0xA2 ≤ k && k ≤ 0xAF) || 0xB8 ≤ k

/-- The undefined identifiers, written from R88's list. -/
def undefinedR88 (nacr : Nat) (id : SsrId) : Bool :=
  let n := (id.extractLsb' 12 4).toNat
  let k := (id.extractLsb' 0 8).toNat
  id.extractLsb' 16 8 != 0#8 ||
  (id.extractLsb' 8 4 != 0xF#4 && !baseIds.contains id) ||
  (id.extractLsb' 8 4 == 0xF#4 && (decide (nacr ≤ n) || skippedXX n k))

/-- The family of a manager identifier exists (R22, R33); a base identifier has none. -/
abbrev FamilyExists (c : Config) (id : SsrId) : Prop := isManager id = true → (familyOf id).toNat < c.nacr

/-- The access check of R24 passes: a base identifier, or ACR0 or ACR1. -/
abbrev MayReach (s : StateOf c) (id : SsrId) : Prop := isManager id = true → s.acr = 0 ∨ s.acr = 1

/-- The access check of R24 does not pass: a manager identifier and another ACR. -/
abbrev Barred (s : StateOf c) (id : SsrId) : Prop := isManager id = true ∧ 2 ≤ s.acr

/-- What R28 and R30 say of the value a permitted read returns: the constant, the stored value, or a free value; for
`CSTATE` a value that holds the active ACR, where there is such a value (R25). -/
def Readable (s : StateOf c) (r : SsrRow) (id : SsrId) (v : Word c.xlen) : Prop :=
  match r.cls with
  | .k n => v = constValue c n id
  | .t => True
  | .s => v = s.storedSsr id
  | .l => id ∈ c.stableExtra → v = s.storedSsr id
  | .x => id = 0x000020#24 → (∃ w, c.acrOfCstate w = s.acr) → c.acrOfCstate v = s.acr

/-- What no access instruction changes, beside the parameters (`s` and `t` are states of one machine): the active ACR,
the program, and every instruction byte. -/
structure Kept (s t : StateOf c) : Prop where
  acr : t.acr = s.acr
  program : t.program = s.program
  bytes : ∀ a : Word c.xlen, t.mem.read a = s.mem.read a

/-- The frame of a read into `x[rd]`: every other general register and every SSR is unchanged. -/
structure ReadFrame (rd : Nat) (s t : StateOf c) : Prop where
  kept : Kept s t
  gpr : ∀ j, j ≠ rd → t.readGpr j = s.readGpr j
  ssr : ∀ o, t.storedSsr o = s.storedSsr o

/-- The frame of a write to the SSR `id`: every general register and every other SSR is unchanged. -/
structure WriteFrame (id : SsrId) (s t : StateOf c) : Prop where
  kept : Kept s t
  gpr : ∀ j, t.readGpr j = s.readGpr j
  ssr : ∀ o, o ≠ id → t.storedSsr o = s.storedSsr o

/-- The frame of a swap of `x[rd]` with the SSR `id`. -/
structure SwapFrame (rd : Nat) (id : SsrId) (s t : StateOf c) : Prop where
  kept : Kept s t
  gpr : ∀ j, j ≠ rd → t.readGpr j = s.readGpr j
  ssr : ∀ o, o ≠ id → t.storedSsr o = s.storedSsr o

/-- A register of class S at `id` (R30): read-write, a permitted read returns the stored value, a permitted write
stores every bit. -/
def ScratchAt (name : String) (id : SsrId) : Prop :=
  ∀ (c : Config) (s : StateOf c) (v : Word c.xlen), FamilyExists c id → MayReach s id →
    (∃ r, findRow c.nacr id = some r ∧ r.name = name ∧ r.access = .rw ∧ r.cls = .s) ∧
    ssrRead id s = .next (s.storedSsr id, s) ∧ ssrWrite id v s = .next (s.storeSsr id v)

/-- A register of class K at `id`: read-only, a permitted read returns the constant. -/
def ConstantAt (name : String) (k : ConstName) (id : SsrId) : Prop :=
  ∀ (c : Config) (s : StateOf c) (v : Word c.xlen), FamilyExists c id → MayReach s id →
    (∃ r, findRow c.nacr id = some r ∧ r.name = name ∧ r.access = .ro ∧ r.cls = .k k) ∧
    ssrRead id s = .next (constValue c k id, s) ∧ ssrWrite id v s = .fault (.ssrWriteOfRO id)

/-- A register of class T at `id`: read-only, a permitted read completes with some value and changes nothing else. -/
def CounterAt (name : String) (id : SsrId) : Prop :=
  ∀ (c : Config) (s : StateOf c) (v : Word c.xlen), FamilyExists c id → MayReach s id →
    (∃ r, findRow c.nacr id = some r ∧ r.name = name ∧ r.access = .ro ∧ r.cls = .t) ∧
    (∃ w, ssrRead id s = .next (w, s.useDraw)) ∧ ssrWrite id v s = .fault (.ssrWriteOfRO id)

/-- A register of class L at `id`: read-write, a permitted read returns the stored value if the identifier is in
`STABLE_EXTRA` and some value otherwise, a permitted write stores every bit. -/
def LatentAt (name : String) (id : SsrId) : Prop :=
  ∀ (c : Config) (s : StateOf c) (v : Word c.xlen), FamilyExists c id → MayReach s id →
    (∃ r, findRow c.nacr id = some r ∧ r.name = name ∧ r.access = .rw ∧ r.cls = .l) ∧
    (if id ∈ c.stableExtra then ssrRead id s = .next (s.storedSsr id, s)
      else ∃ w, ssrRead id s = .next (w, s.useDraw)) ∧
    ssrWrite id v s = .next (s.storeSsr id v)

/-- A readable register of class X at `id`: a permitted read completes with some value, a permitted write is
refused. -/
def LiveControlAt (name : String) (id : SsrId) : Prop :=
  ∀ (c : Config) (s : StateOf c) (v : Word c.xlen), FamilyExists c id → MayReach s id →
    (∃ r, findRow c.nacr id = some r ∧ r.name = name ∧ r.access = .rw ∧ r.cls = .x) ∧
    (∃ w, ssrRead id s = .next (w, s.useDraw)) ∧ ssrWrite id v s = .refused (.liveControlWrite id)

/-- Two states that differ at most in what the manager-family SSRs store. -/
def AgreeOffManager (s t : StateOf c) : Prop :=
  t = { s with ssr := t.ssr } ∧ ∀ id, isManager id = false → t.storedSsr id = s.storedSsr id

/-- Two answers of a step of a machine of parameters `c` that differ at most in what the manager-family SSRs store. -/
def SameOutcome (c : Config) (a b : Answer State) : Prop :=
  match a, b with
  | .next u, .next w => ∃ s t : StateOf c, u = s.state ∧ w = t.state ∧ AgreeOffManager s t
  | .fault e, .fault f => e = f
  | .refused q, .refused r => q = r
  | _, _ => False

/-- The instructions that write `x[rs]` to the SSR `id`: the two stores and the swap, the 32-bit ones where the
identifier fits. -/
def WritesTo (rs : Nat) (id : SsrId) (i : Instr) : Prop :=
  i = .hlSsrset id rs ∨ (fits12 id = true ∧ (i = .ssrset id rs ∨ ∃ rd, i = .ssrswap rd id rs))

/-- The instructions that read the SSR `id` into `x[rd]`: the three reads and the swap, the 32-bit ones where the
identifier fits, the 16-bit one where the profile's table names it. -/
def ReadsFrom (c : Config) (rd : Nat) (id : SsrId) (i : Instr) : Prop :=
  i = .hlSsrget rd id ∨ (fits12 id = true ∧ (i = .ssrget rd id ∨ ∃ rs, i = .ssrswap rd id rs)) ∨
  ∃ code, remapOf c code = some id ∧ i = .cSsrget rd code

/-- The register numbers of a trap bank (R190): `ECSTATE` to `TRAPARG0`, `ETEMP`, `ETEMP0`, `ECONFIG`, and the
seventeen EBARG words. -/
def trapBank (k : Nat) : Bool := k ≤ 0x03 || (0x05 ≤ k && k ≤ 0x07) || (0x40 ≤ k && k ≤ 0x50)

/-- The sum of the lengths of terms, in bytes. -/
def sumLengths : List Instr → Nat
  | [] => 0
  | i :: rest => i.lengthBytes + sumLengths rest

end Sys2Proof.Claims

open Sys2Proof Sys2Proof.Machine Sys2Proof.Claims

/-! ## Encoding and identifiers -/

/-- R155, R156: every term that can be encoded is read back from its fields.
The zero extension is the spec's decision D3, the table of codes D13. -/
def Obligations.DecodeFormOfEncodedTerm : Prop :=
  ∀ (c : Config) (i : Instr), c.wf = true → i.wellFormed c = true →
    ∃ f, encode c i = some f ∧ decodeForm f = i

/-- R151, R152, R154: no bit of a form's fields is dropped.
The same decisions, D3 and D13. -/
def Obligations.EncodeOfDecodedForm : Prop :=
  ∀ (c : Config) (f : Form), c.wf = true → (decodeForm f).wellFormed c = true → encode c (decodeForm f) = some f

/-- R21, R155: identifier fields are zero-extended or taken whole (a few fields written out, 95_test_vectors.md 2.3). -/
def Obligations.SampleFormsDecode : Prop :=
  decodeForm (.ssrget 5 0xF05#12) = .ssrget 5 0x000F05#24 ∧
  decodeForm (.ssrset 0xC00#12 6) = .ssrset 0x000C00#24 6 ∧
  decodeForm (.ssrswap 7 0xF05#12 7) = .ssrswap 7 0x000F05#24 7 ∧
  decodeForm (.hlSsrget 8 0x001F80#24) = .hlSsrget 8 0x001F80#24 ∧
  decodeForm (.hlSsrset 0xFFFFFF#24 9) = .hlSsrset 0xFFFFFF#24 9 ∧
  decodeForm (.cSsrget 5 1#15) = .cSsrget 5 1

/-- R153, R161: the byte decoder refuses every byte sequence, and bytes at `pc` stop the machine by that name.
The refusal is the spec's decision D12; the place of the bytes is log 10. -/
def Obligations.ByteDecoderRefusesEveryWord : Prop :=
  (∀ bs, decode bs = .error .unknownEncoding) ∧ (∀ nbits w, decodeTableWord nbits w = none) ∧
  ∀ (c : Config) (s : StateOf c), termAt s.program s.pc = none → (s.mem.read s.pc).isSome = true →
    step s.state = .refused .unknownEncoding

/-- R156: which form can name which identifier, that a long form with a short identifier means what the short form
means, and that an ill-formed term is rejected.
That a long form may carry a short identifier is the spec's decision D26; when a term is rejected is log 11, the range
of register indices log 4. -/
def Obligations.FormChoice : Prop :=
  (∀ id : SsrId, fits12 id = true ↔ id.toNat ≤ 0x000FFF) ∧
  (∀ (c : Config) (rd rs : Nat) (id : SsrId), c.hasGpr rd = true → c.hasGpr rs = true →
    ((Instr.ssrget rd id).wellFormed c = true ↔ fits12 id = true) ∧
    ((Instr.ssrset id rs).wellFormed c = true ↔ fits12 id = true) ∧
    ((Instr.ssrswap rd id rs).wellFormed c = true ↔ fits12 id = true) ∧
    (Instr.hlSsrget rd id).wellFormed c = true ∧ (Instr.hlSsrset id rs).wellFormed c = true) ∧
  (∀ (c : Config) (i : Instr) (rd : Nat), i.destOf = some rd → c.hasGpr rd = false → i.wellFormed c = false) ∧
  (∀ (c : Config) (rd rs : Nat) (id : SsrId), c.hasGpr rs = false → (Instr.ssrset id rs).wellFormed c = false ∧
    (Instr.ssrswap rd id rs).wellFormed c = false ∧ (Instr.hlSsrset id rs).wellFormed c = false) ∧
  (∀ id ∈ baseIds, fits12 id = true) ∧
  (∀ (n : BitVec 4) (xx : BitVec 8), fits12 (mgr n xx) = true ↔ n = 0#4) ∧
  (∀ (rd rs : Nat) (id : SsrId) (s : State), fits12 id = true →
    exec (.hlSsrget rd id) s = chain (exec (.ssrget rd id) s) (fun t => .next (t.body.advance 2).state) ∧
    exec (.hlSsrset id rs) s = chain (exec (.ssrset id rs) s) (fun t => .next (t.body.advance 2).state)) ∧
  (∀ (c : Config) (s : StateOf c) (i : Instr), termAt s.program s.pc = some i → i.wellFormed c = false →
    step s.state = .refused .illFormedTerm)

/-- R150: the three lengths. -/
def Obligations.LengthsOfTheForms : Prop :=
  (∀ rd f, (Form.cSsrget rd f).lengthBits = 16) ∧ (∀ rd f, (Form.ssrget rd f).lengthBits = 32) ∧
  (∀ f rs, (Form.ssrset f rs).lengthBits = 32) ∧ (∀ rd f rs, (Form.ssrswap rd f rs).lengthBits = 32) ∧
  (∀ rd f, (Form.hlSsrget rd f).lengthBits = 48) ∧ (∀ f rs, (Form.hlSsrset f rs).lengthBits = 48)

/-- R33: the register list defines exactly the identifiers of R33's sets.
Rests on the spec's decisions D24 and D27. -/
def Obligations.DefinedIdentifiers : Prop :=
  ∀ (nacr : Nat) (id : SsrId), (findRow nacr id).isSome = definedR33 nacr id

/-- R88: the identifiers of its list are exactly the undefined ones, and an access to one faults, for reads and writes
alike and from every ACR; so does every instruction that names one.
The fault is the spec's decision D4. -/
def Obligations.UndefinedIdentifierFaults : Prop :=
  ∀ (c : Config) (s : StateOf c) (id : SsrId),
    (undefinedR88 c.nacr id = true ↔ definedR33 c.nacr id = false) ∧
    (undefinedR88 c.nacr id = true →
      ssrRead id s = .fault (.ssrUndefined id) ∧ (∀ v, ssrWrite id v s = .fault (.ssrUndefined id)) ∧
      (∀ rd, exec (.hlSsrget rd id) s.state = .fault (.ssrUndefined id)) ∧
      (∀ rs, exec (.hlSsrset id rs) s.state = .fault (.ssrUndefined id)) ∧
      (∀ rd code, remapOf c code = some id → exec (.cSsrget rd code) s.state = .fault (.ssrUndefined id)) ∧
      (fits12 id = true → ∀ rd rs, exec (.ssrget rd id) s.state = .fault (.ssrUndefined id) ∧
        exec (.ssrset id rs) s.state = .fault (.ssrUndefined id) ∧
        exec (.ssrswap rd id rs) s.state = .fault (.ssrUndefined id)))

/-- R69: the seven MMU and IOMMU registers exist for family 1 only.
Rests on the spec's decisions D24 and D4. -/
def Obligations.TranslationRegistersOnlyInFamilyOne : Prop :=
  ∀ (c : Config) (s : StateOf c) (n : BitVec 4) (xx : BitVec 8), 2 ≤ c.nacr → 0x10 ≤ xx.toNat → xx.toNat ≤ 0x16 →
    (n = 1#4 → ∃ r, findRow c.nacr (mgr n xx) = some r ∧ r.access = .rw ∧ r.cls = .x ∧
      (mgr n xx).toNat = 0x001F00 + xx.toNat) ∧
    (n ≠ 1#4 → ssrRead (mgr n xx) s = .fault (.ssrUndefined (mgr n xx)) ∧
      ∀ v, ssrWrite (mgr n xx) v s = .fault (.ssrUndefined (mgr n xx)))

/-! ## Registers by class -/

/-- R34, R35, R54, R55: the four scratch registers; `ETEMP` and `ETEMP0` are stored apart.
The classes are R30's (the spec's decision D8, log 18), every bit D28. -/
def Obligations.ScratchRegisters : Prop :=
  ScratchAt "TP" 0x000000#24 ∧ ScratchAt "GP" 0x000001#24 ∧
  (∀ n : BitVec 4, ScratchAt "ETEMP_ACRn" (mgr n 0x05#8) ∧ ScratchAt "ETEMP0_ACRn" (mgr n 0x06#8)) ∧
  ∀ (c : Config) (s : StateOf c) (v : Word c.xlen) (n : BitVec 4),
    (s.storeSsr (mgr n 0x05#8) v).storedSsr (mgr n 0x06#8) = s.storedSsr (mgr n 0x06#8) ∧
    (s.storeSsr (mgr n 0x06#8) v).storedSsr (mgr n 0x05#8) = s.storedSsr (mgr n 0x05#8)

/-- R38 to R41, R100: the identification registers read as the parameters, each as its own.
The classes are R30's (the spec's decision D8, log 18), the fault D5 (log 16). -/
def Obligations.ConstantRegisters : Prop :=
  ConstantAt "LXLCID" .lxlcid 0x000021#24 ∧ ConstantAt "VENDOR" .vendor 0x000022#24 ∧
  ConstantAt "VERSION" .version 0x000023#24 ∧ ConstantAt "LCFR" .lcfr 0x000024#24 ∧
  (∀ n : BitVec 4, ConstantAt "DBGID_ACRn" .dbgid (mgr n 0x80#8)) ∧
  (∀ (c : Config) (id : SsrId), constValue c .lxlcid id = c.constLxlcid ∧ constValue c .vendor id = c.constVendor ∧
    constValue c .version id = c.constVersion ∧ constValue c .lcfr id = c.constLcfr) ∧
  ∀ (c : Config) (n : BitVec 4), constValue c .dbgid (mgr n 0x80#8) = c.constDbgid[n.toNat]'n.isLt

/-- R36, R49, R67: the three counters read under no law and cannot be written.
The classes are R30's (D8, log 18), the fault D5 (log 16), what `CYCLE` counts D23. -/
def Obligations.CounterRegisters : Prop :=
  CounterAt "TIME" 0x000010#24 ∧ CounterAt "CYCLE" 0x000C00#24 ∧
  ∀ n : BitVec 4, CounterAt "TIMER_TIME_ACRn" (mgr n 0x20#8)

/-- R43 to R48: the loop/lane registers are latent.
The classes are R30's (D8). -/
def Obligations.LoopRegistersAreLatent : Prop :=
  LatentAt "LB0" 0x000050#24 ∧ LatentAt "LB1" 0x000051#24 ∧ LatentAt "LB2" 0x000052#24 ∧
  LatentAt "LC0" 0x000053#24 ∧ LatentAt "LC1" 0x000054#24 ∧ LatentAt "LC2" 0x000055#24

/-- R50 to R53: the trap registers of every family are latent.
The classes are R30's (D8). -/
def Obligations.TrapRegistersAreLatent : Prop :=
  ∀ n : BitVec 4, LatentAt "ECSTATE_ACRn" (mgr n 0x00#8) ∧ LatentAt "EVBASE_ACRn" (mgr n 0x01#8) ∧
    LatentAt "TRAPNO_ACRn" (mgr n 0x02#8) ∧ LatentAt "TRAPARG0_ACRn" (mgr n 0x03#8)

/-- R87 with R70 to R86: the EBARG group is the seventeen latent words `0x40` to `0x50` of every family, and nothing
else of a family lies between `0x22` and `0x7F`.
The classes are R30's (D8), the undefined numbers D4. -/
def Obligations.EbargWordsAreLatent : Prop :=
  (∀ (n : BitVec 4) (xx : BitVec 8), 0x40 ≤ xx.toNat → xx.toNat ≤ 0x50 → ∃ name, LatentAt name (mgr n xx)) ∧
  (∀ (nacr : Nat) (n : BitVec 4) (xx : BitVec 8), 0x22 ≤ xx.toNat → xx.toNat ≤ 0x7F →
    xx.toNat < 0x40 ∨ 0x50 < xx.toNat → findRow nacr (mgr n xx) = none) ∧
  (∀ n : BitVec 4, LatentAt "EBARG0_ACRn" (mgr n 0x40#8) ∧ LatentAt "EBARG_TPC_ACRn" (mgr n 0x43#8) ∧
    LatentAt "EBARG_LB_ACRn" (mgr n 0x4D#8) ∧ LatentAt "EBARG_EXTCTX_META_ACRn" (mgr n 0x50#8))

/-- R42, R56 to R58, R68: the interrupt, feature and timer control registers read as free values and refuse
writes.
The classes are R30's (D8, log 18), the refusal D20 (log 15). -/
def Obligations.InterruptControlRefusesWrites : Prop :=
  LiveControlAt "LCFR_EN" 0x000025#24 ∧
  ∀ n : BitVec 4, LiveControlAt "ECONFIG_ACRn" (mgr n 0x07#8) ∧ LiveControlAt "IPENDING_ACRn" (mgr n 0x08#8) ∧
    LiveControlAt "TOPEI_ACRn" (mgr n 0x09#8) ∧ LiveControlAt "TIMER_TIMECMP_ACRn" (mgr n 0x21#8)

/-- R60 to R66: the translation registers of ACR1 read as free values and refuse writes.
The classes are R30's (D8), the refusal D20, family 1 D24. -/
def Obligations.TranslationControlRefusesWrites : Prop :=
  LiveControlAt "TTBR0_ACR1" 0x001F10#24 ∧ LiveControlAt "TTBR1_ACR1" 0x001F11#24 ∧
  LiveControlAt "TCR_ACR1" 0x001F12#24 ∧ LiveControlAt "MAIR_ACR1" 0x001F13#24 ∧
  LiveControlAt "IOTTBR_ACR1" 0x001F14#24 ∧ LiveControlAt "IOTCR_ACR1" 0x001F15#24 ∧
  LiveControlAt "IOMAIR_ACR1" 0x001F16#24

/-- R119 with R101 to R118: the eighteen debug control and value registers of every family read as free values and
refuse writes.
The classes are R30's (D8), the refusal D20. -/
def Obligations.DebugControlRefusesWrites : Prop :=
  ∀ n : BitVec 4,
    (∀ xx : BitVec 8, (0x90 ≤ xx.toNat ∧ xx.toNat ≤ 0x97) ∨ (0xA0 ≤ xx.toNat ∧ xx.toNat ≤ 0xA1) ∨
      (0xB0 ≤ xx.toNat ∧ xx.toNat ≤ 0xB7) → ∃ name, LiveControlAt name (mgr n xx)) ∧
    LiveControlAt "DBCR0_ACRn" (mgr n 0x90#8) ∧ LiveControlAt "DBVR3_ACRn" (mgr n 0x97#8) ∧
    LiveControlAt "DCCR0_ACRn" (mgr n 0xA0#8) ∧ LiveControlAt "DCVR0_ACRn" (mgr n 0xA1#8) ∧
    LiveControlAt "DWCR0_ACRn" (mgr n 0xB0#8) ∧ LiveControlAt "DWVR3_ACRn" (mgr n 0xB7#8)

/-- R59: `EOIEI_ACRn` is the only write-only register; a read of it, by a swap too, raises `SsrReadOfWO`, and a write
is refused.
The fault is the spec's decision D5 (log 16), the refusal D20 (log 15). -/
def Obligations.EndOfInterruptRegister : Prop :=
  (∀ (nacr : Nat) (id : SsrId) (r : SsrRow), findRow nacr id = some r →
    (r.access = .wo ↔ isManager id = true ∧ numberOf id = 0x0A#8) ∧ (r.access = .wo → r.cls = .x)) ∧
  ∀ (c : Config) (s : StateOf c) (n : BitVec 4), n.toNat < c.nacr → s.acr = 0 ∨ s.acr = 1 →
    ssrRead (mgr n 0x0A#8) s = .fault (.ssrReadOfWO (mgr n 0x0A#8)) ∧
    (∀ v, ssrWrite (mgr n 0x0A#8) v s = .refused (.liveControlWrite (mgr n 0x0A#8))) ∧
    (n = 0#4 → ∀ rd rs, exec (.ssrswap rd (mgr n 0x0A#8) rs) s.state = .fault (.ssrReadOfWO (mgr n 0x0A#8)))

/-- R25, R37: `ACR_OF_CSTATE` gives ACR numbers below `NACR`; a read of `CSTATE` returns a value that holds the active
ACR, which is below `NACR`; no instruction changes the active ACR, and a write of `CSTATE` is refused.
Rests on the spec's decision D19; the layout of `CSTATE` is log 13. -/
def Obligations.ActiveAcr : Prop :=
  (∀ (c : Config) (v : Word c.xlen), c.wf = true → c.acrOfCstate v < c.nacr) ∧
  (∀ (c : Config) (s : StateOf c), s.state.Inv → s.acr < c.nacr ∧
    ∃ v, ssrRead 0x000020#24 s = .next (v, s.useDraw) ∧ c.acrOfCstate v = s.acr) ∧
  (∀ (i : Instr) (s t : State), exec i s = .next t → t.body.acr = s.body.acr) ∧
  (∀ (c : Config) (s : StateOf c) (v : Word c.xlen),
    ssrWrite 0x000020#24 v s = .refused (.liveControlWrite 0x000020#24)) ∧
  (∃ r, (∀ nacr, findRow nacr 0x000020#24 = some r) ∧ r.name = "CSTATE" ∧ r.access = .rw ∧ r.cls = .x) ∧
  State.reset.body.acr = State.reset.cfg.resetAcr

/-! ## Privilege -/

/-- R24, R177: from ACR0 and ACR1 no access to a defined manager register is barred, whatever the family, and a read
changes nothing (but the count of free values used, log 3); from another ACR it is `SsrPrivilege` or ignored, by the
policy, and `SsrPrivilege` too where the policy is not known; a base register is never barred.
Rests on the spec's decisions D6, D7 and D29. -/
def Obligations.PrivilegeRule : Prop :=
  ∀ (c : Config) (s : StateOf c) (id : SsrId) (v : Word c.xlen) (r : SsrRow), findRow c.nacr id = some r →
    (MayReach s id →
      (∀ f, ssrRead id s = .fault f → f = .ssrReadOfWO id) ∧
      (∀ f, ssrWrite id v s = .fault f → f = .ssrWriteOfRO id) ∧
      (r.access ≠ .wo → ∃ w t, ssrRead id s = .next (w, t) ∧ (t = s ∨ t = s.useDraw)) ∧
      (r.access ≠ .ro → r.cls ≠ .x → ssrWrite id v s = .next (s.storeSsr id v))) ∧
    (Barred s id → c.otherAcrPolicy = some .raise ∨ c.otherAcrPolicy = none →
      ssrRead id s = .fault (.ssrPrivilege id s.acr) ∧ ssrWrite id v s = .fault (.ssrPrivilege id s.acr)) ∧
    (Barred s id → c.otherAcrPolicy = some .ignore →
      (∃ w, ssrRead id s = .next (w, s.useDraw)) ∧ ssrWrite id v s = .next s)

/-- R24, R196, R198: from an ACR other than 0 and 1 no step changes what a manager-family register stores.
Rests on the spec's decisions D6 and D18: a step is no trap, interrupt or debug event, so of a chip the statement holds
under the premises `NoInterrupt` and `NoDebugEvent` of R223 (log 20, unsafe if they are false). -/
def Obligations.OtherAcrsCannotChangeManagerRegisters : Prop :=
  ∀ (c : Config) (s : StateOf c) (u : State), 2 ≤ s.acr → step s.state = .next u →
    ∃ t : StateOf c, u = t.state ∧ ∀ id, isManager id = true → t.storedSsr id = s.storedSsr id

/-- R24, R196, R198, R211: from an ACR other than 0 and 1 no step depends on what a manager-family register stores: two
states of one machine that differ only there answer alike and go on differing only there. Both runs take the same free
values, which the model draws by number (log 3, DESIGN CHOICE).
Rests on the spec's decisions D6 and D18: a step is no trap, interrupt or debug event, so that no step looks at
`IPENDING`, `EVBASE` or a debug register holds of a chip under the premises `NoInterrupt` and `NoDebugEvent` of R223
(log 20, unsafe if they are false). -/
def Obligations.OtherAcrsLearnNothingOfManagerRegisters : Prop :=
  ∀ (c : Config) (s t : StateOf c), 2 ≤ s.acr → AgreeOffManager s t → SameOutcome c (step s.state) (step t.state)

/-! ## The six instructions -/

/-- R171: `SSRGET` completes on every readable register it may reach: its result and its frame.
The meaning is the spec's decision D9, the classes D8. -/
def Obligations.SsrgetCompletes : Prop :=
  ∀ (c : Config) (s : StateOf c) (rd : Nat) (id : SsrId) (r : SsrRow), fits12 id = true →
    findRow c.nacr id = some r →
    MayReach s id → r.access ≠ .wo →
    ∃ t : StateOf c, exec (.ssrget rd id) s.state = .next t.state ∧ Readable s r id (t.readGpr rd) ∧
      t.pc = s.pc + 4#c.xlen ∧ ReadFrame rd s t

/-- R174: `HL.SSRGET` completes on every readable register it may reach, of every family.
The meaning is the spec's decision D9, the classes D8, short identifiers D26. -/
def Obligations.HlSsrgetCompletes : Prop :=
  ∀ (c : Config) (s : StateOf c) (rd : Nat) (id : SsrId) (r : SsrRow), findRow c.nacr id = some r →
    MayReach s id → r.access ≠ .wo →
    ∃ t : StateOf c, exec (.hlSsrget rd id) s.state = .next t.state ∧ Readable s r id (t.readGpr rd) ∧
      t.pc = s.pc + 6#c.xlen ∧ ReadFrame rd s t

/-- R176: `C.SSRGET` completes where the profile's table gives the code a readable register it may reach.
The meaning is the spec's decisions D9 and D13, the classes D8. -/
def Obligations.CSsrgetCompletes : Prop :=
  ∀ (c : Config) (s : StateOf c) (rd code : Nat) (id : SsrId) (r : SsrRow), remapOf c code = some id →
    findRow c.nacr id = some r → MayReach s id → r.access ≠ .wo →
    ∃ t : StateOf c, exec (.cSsrget rd code) s.state = .next t.state ∧ Readable s r id (t.readGpr rd) ∧
      t.pc = s.pc + 2#c.xlen ∧ ReadFrame rd s t

/-- R172: `SSRSET` completes on every class S and class L register it may reach, and stores every bit of `x[rs]`.
The meaning is the spec's decision D9, the classes D8, every bit D28. -/
def Obligations.SsrsetCompletes : Prop :=
  ∀ (c : Config) (s : StateOf c) (id : SsrId) (rs : Nat) (r : SsrRow), fits12 id = true →
    findRow c.nacr id = some r →
    MayReach s id → r.cls = .s ∨ r.cls = .l →
    ∃ t : StateOf c, exec (.ssrset id rs) s.state = .next t.state ∧ t.storedSsr id = s.readGpr rs ∧
      t.pc = s.pc + 4#c.xlen ∧ WriteFrame id s t

/-- R175: `HL.SSRSET` completes on every class S and class L register it may reach, of every family.
The meaning is the spec's decision D9, the classes D8, every bit D28. -/
def Obligations.HlSsrsetCompletes : Prop :=
  ∀ (c : Config) (s : StateOf c) (id : SsrId) (rs : Nat) (r : SsrRow), findRow c.nacr id = some r →
    MayReach s id → r.cls = .s ∨ r.cls = .l →
    ∃ t : StateOf c, exec (.hlSsrset id rs) s.state = .next t.state ∧ t.storedSsr id = s.readGpr rs ∧
      t.pc = s.pc + 6#c.xlen ∧ WriteFrame id s t

/-- R173: `SSRSWAP` completes on every class S and class L register it may reach, `rd = rs` among the cases: `x[rs]`
is taken before `x[rd]` is written.
The meaning is the spec's decision D9, its indivisibility D17, the classes D8. -/
def Obligations.SsrswapCompletes : Prop :=
  ∀ (c : Config) (s : StateOf c) (rd rs : Nat) (id : SsrId) (r : SsrRow), fits12 id = true →
    findRow c.nacr id = some r →
    MayReach s id → r.cls = .s ∨ r.cls = .l →
    ∃ t : StateOf c, exec (.ssrswap rd id rs) s.state = .next t.state ∧ Readable s r id (t.readGpr rd) ∧
      t.storedSsr id = s.readGpr rs ∧ t.pc = s.pc + 4#c.xlen ∧ SwapFrame rd id s t

/-- R171, R174, R176: where a read instruction stops on a defined register.
The faults are the spec's decisions D5 and D6. -/
def Obligations.ReadInstructionsStop : Prop :=
  ∀ (c : Config) (s : StateOf c) (rd : Nat) (id : SsrId) (r : SsrRow), findRow c.nacr id = some r →
    (Barred s id → c.otherAcrPolicy ≠ some .ignore →
      exec (.hlSsrget rd id) s.state = .fault (.ssrPrivilege id s.acr) ∧
      (∀ code, remapOf c code = some id → exec (.cSsrget rd code) s.state = .fault (.ssrPrivilege id s.acr)) ∧
      (fits12 id = true → exec (.ssrget rd id) s.state = .fault (.ssrPrivilege id s.acr))) ∧
    (MayReach s id → r.access = .wo →
      exec (.hlSsrget rd id) s.state = .fault (.ssrReadOfWO id) ∧
      (∀ code, remapOf c code = some id → exec (.cSsrget rd code) s.state = .fault (.ssrReadOfWO id)) ∧
      (fits12 id = true → exec (.ssrget rd id) s.state = .fault (.ssrReadOfWO id)))

/-- R172, R175: where a write instruction stops on a defined register.
The stops are the spec's decisions D5, D6, D19 and D20. -/
def Obligations.WriteInstructionsStop : Prop :=
  ∀ (c : Config) (s : StateOf c) (rs : Nat) (id : SsrId) (r : SsrRow), findRow c.nacr id = some r →
    (Barred s id → c.otherAcrPolicy ≠ some .ignore →
      exec (.hlSsrset id rs) s.state = .fault (.ssrPrivilege id s.acr) ∧
      (fits12 id = true → exec (.ssrset id rs) s.state = .fault (.ssrPrivilege id s.acr))) ∧
    (MayReach s id → r.access = .ro →
      exec (.hlSsrset id rs) s.state = .fault (.ssrWriteOfRO id) ∧
      (fits12 id = true → exec (.ssrset id rs) s.state = .fault (.ssrWriteOfRO id))) ∧
    (MayReach s id → r.cls = .x →
      exec (.hlSsrset id rs) s.state = .refused (.liveControlWrite id) ∧
      (fits12 id = true → exec (.ssrset id rs) s.state = .refused (.liveControlWrite id)))

/-- R173: where a swap stops: the read is tested first, then the write.
The stops are the spec's decisions D5, D6 and D20, their order D30. -/
def Obligations.SwapStops : Prop :=
  ∀ (c : Config) (s : StateOf c) (rd rs : Nat) (id : SsrId) (r : SsrRow), fits12 id = true →
    findRow c.nacr id = some r →
    (Barred s id → c.otherAcrPolicy ≠ some .ignore →
      exec (.ssrswap rd id rs) s.state = .fault (.ssrPrivilege id s.acr)) ∧
    (MayReach s id → r.access = .wo → exec (.ssrswap rd id rs) s.state = .fault (.ssrReadOfWO id)) ∧
    (MayReach s id → r.access = .ro → exec (.ssrswap rd id rs) s.state = .fault (.ssrWriteOfRO id)) ∧
    (MayReach s id → r.access = .rw → r.cls = .x →
      exec (.ssrswap rd id rs) s.state = .refused (.liveControlWrite id))

/-- R24, R171 to R176 under the policy `ignore`: a barred access completes; a read leaves some value in `x[rd]`, a
write nothing.
Rests on the spec's decision D6. -/
def Obligations.IgnoredAccessesComplete : Prop :=
  ∀ (c : Config) (s : StateOf c) (rd rs : Nat) (id : SsrId) (r : SsrRow), findRow c.nacr id = some r → Barred s id →
    c.otherAcrPolicy = some .ignore →
    (∃ t : StateOf c, exec (.hlSsrget rd id) s.state = .next t.state ∧ t.pc = s.pc + 6#c.xlen ∧
      ReadFrame rd s t) ∧
    exec (.hlSsrset id rs) s.state = .next (s.advance 6).state ∧
    (∀ code, remapOf c code = some id →
      ∃ t : StateOf c, exec (.cSsrget rd code) s.state = .next t.state ∧ t.pc = s.pc + 2#c.xlen ∧
        ReadFrame rd s t) ∧
    (fits12 id = true →
      (∃ t : StateOf c, exec (.ssrget rd id) s.state = .next t.state ∧ t.pc = s.pc + 4#c.xlen ∧
        ReadFrame rd s t) ∧
      exec (.ssrset id rs) s.state = .next (s.advance 4).state ∧
      (∃ t : StateOf c, exec (.ssrswap rd id rs) s.state = .next t.state ∧ t.pc = s.pc + 4#c.xlen ∧
        ReadFrame rd s t))

/-- R176: a code outside the table is refused, and a code inside it reads as `HL.SSRGET` of the mapped identifier,
with a shorter advance.
Rests on the spec's decision D13. -/
def Obligations.CompactReadFollowsTheTable : Prop :=
  ∀ (s : State) (rd code : Nat),
    (remapOf s.cfg code = none → exec (.cSsrget rd code) s = .refused (.cRemapMissing code)) ∧
    (∀ id, remapOf s.cfg code = some id →
      exec (.hlSsrget rd id) s = chain (exec (.cSsrget rd code) s) (fun t => .next (t.body.advance 4).state))

/-- R170: an instruction that completes writes no general register other than `rd` and no SSR other than the one it
names, and moves `pc` by its length.
Rests on the spec's decisions D9 and D11. -/
def Obligations.NothingElseIsWritten : Prop :=
  ∀ (c : Config) (i : Instr) (s : StateOf c) (u : State), i.wellFormed c = true → exec i s.state = .next u →
    ∃ t : StateOf c, u = t.state ∧ (∀ j, i.destOf ≠ some j → t.readGpr j = s.readGpr j) ∧
      (∀ id, i.writtenSsr ≠ some id → t.storedSsr id = s.storedSsr id) ∧
      t.pc = s.pc + BitVec.ofNat c.xlen i.lengthBytes ∧ Kept s t

/-- R224, R30: what any of the writing instructions writes to a class S register is what the next read of it returns,
whichever of the reading instructions that is, with no instruction needed between.
Rests on the spec's decisions D8 and D17. -/
def Obligations.ScratchWriteSeenByRead : Prop :=
  ∀ (c : Config) (s : StateOf c) (rd rs : Nat) (id : SsrId) (r : SsrRow) (i j : Instr),
    findRow c.nacr id = some r → r.cls = .s → MayReach s id → WritesTo rs id i → ReadsFrom c rd id j →
    ∃ t u : StateOf c, exec i s.state = .next t.state ∧ exec j t.state = .next u.state ∧
      u.readGpr rd = s.readGpr rs

/-- R173: swapping a general register with a class S register twice restores both.
Rests on the spec's decisions D8, D9 and D17. -/
def Obligations.SwapTwiceRestores : Prop :=
  ∀ (c : Config) (s : StateOf c) (rd : Nat) (id : SsrId) (r : SsrRow), fits12 id = true →
    findRow c.nacr id = some r → r.cls = .s → MayReach s id →
    ∃ t u : StateOf c, exec (.ssrswap rd id rd) s.state = .next t.state ∧ t.readGpr rd = s.storedSsr id ∧
      t.storedSsr id = s.readGpr rd ∧ exec (.ssrswap rd id rd) t.state = .next u.state ∧
      (∀ j, u.readGpr j = s.readGpr j) ∧ (∀ o, u.storedSsr o = s.storedSsr o)

/-! ## Steps, runs and reset -/

/-- R227, R170: the well-formed term at `pc` is what a step runs, with nothing added around it.
The level of terms is the spec's decisions D12 and D31. That no interrupt or debug event comes around the term is D18,
under the premises `NoInterrupt` and `NoDebugEvent` of R223 (log 20, unsafe if they are false). The model's own choices:
a term comes before bytes that also stand at `pc` (log 10), and in a program of `2^XLEN` bytes or more a term runs at
the address just past the last one too (log 27, unsafe for such a program). -/
def Obligations.StepRunsTheTermAtPc : Prop :=
  ∀ (c : Config) (s : StateOf c) (i : Instr), termAt s.program s.pc = some i → i.wellFormed c = true →
    step s.state = exec i s.state

/-- R227: each term stands at the base plus the lengths of the terms before it, and the run ends just past the last
one, for a program shorter than the address space (log 27 says what the model does with a longer one).
Rests on the spec's decisions D11 and D31. -/
def Obligations.ProgramTermsStandConsecutively : Prop :=
  ∀ (c : Config) (p : Program c) (before after : List Instr) (i : Instr), p.terms = before ++ i :: after →
    sumLengths p.terms < 2 ^ c.xlen →
    termAt p (p.base + BitVec.ofNat c.xlen (sumLengths before)) = some i ∧
    p.endPc = p.base + BitVec.ofNat c.xlen (sumLengths p.terms) ∧ termAt p p.endPc = none

/-- The model's own (log 12, DESIGN CHOICE): where no term and no byte stands, a step stops, by the end of the run just
past the last term and by a refusal elsewhere. -/
def Obligations.StepStopsWhereNothingStands : Prop :=
  ∀ (c : Config) (s : StateOf c), termAt s.program s.pc = none → s.mem.read s.pc = none →
    (s.pc = s.program.endPc → step s.state = .fault .endOfRun) ∧
    (s.pc ≠ s.program.endPc → step s.state = .refused (.noInstruction s.pc.toNat))

/-- The model's own (log 10, DESIGN CHOICE): the bytes placed at `pc` are the bytes fetched from there. -/
def Obligations.PlacedBytesAreFetched : Prop :=
  ∀ (xlen : Nat) (m : Memory) (a : Word xlen) (bs : List Byte), bs.length < 2 ^ xlen →
    (m.writeBytes a bs).bytesFrom (min bs.length 6) a = bs.take 6

/-- R25, R131: every step keeps the parameters, the active ACR, the program and every instruction byte.
That no step changes `acr` rests on the spec's decision D18: a step is no trap and no interrupt, which could enter
another mode (R199), so of a chip it holds under the premises `NoInterrupt` and `NoDebugEvent` of R223 (log 20, unsafe
if they are false). The parameters as a part of the state (log 2), the program (log 9) and the instruction bytes
(log 10) are the model's own. -/
def Obligations.StepKeepsAcrParametersProgramAndBytes : Prop :=
  ∀ (c : Config) (s : StateOf c) (u : State), step s.state = .next u → ∃ t : StateOf c, u = t.state ∧ Kept s t

/-- R198, R211, R29: no step changes what a register outside classes S and L holds: nothing in the machine can unmask
or arm an interrupt or a debug event, or turn translation on.
Rests on the spec's decisions D18 and D20, under the premises `NoInterrupt` and `NoDebugEvent` of R223 (log 15, and
log 20, unsafe if the premises are false). -/
def Obligations.LiveControlNeverStored : Prop :=
  ∀ (c : Config) (s : StateOf c) (u : State), step s.state = .next u →
    ∃ t : StateOf c, u = t.state ∧ ∀ id, isStored c.nacr id = false → t.storedSsr id = s.storedSsr id

/-- Every step keeps the invariant of the model: the parameters' constraints (R8), a `CSTATE` value for every ACR
(log 13, DEDUCED), `acr < NACR` (R25), the canonical forms (logs 8 and 10), general registers only of the range of `GPR`
(log 4), and an SSR file that lists only registers whose writes are stored (R20, R29).
Rests on the spec's decisions D18 and D20: a step is no trap, interrupt or debug event (log 20, unsafe if the premises
of R223 are false), and a class X write is refused (log 15). -/
def Obligations.StepKeepsInvariant : Prop :=
  ∀ s t : State, s.Inv → step s = .next t → t.Inv

/-- The state after reset meets the invariant (R32, R220).
That the free parameters of `State.reset` meet R8's constraints is the model's choice of them (log 2, DESIGN CHOICE),
and that its `CSTATE` can hold every ACR is an inference (log 13, DEDUCED); the empty files and the empty memory are the
model's own form (logs 8 and 10). -/
def Obligations.ResetMeetsInvariant : Prop := State.reset.Inv

/-- R32, R220, R221: after reset of any machine `acr` and `pc` are the parameters `RESET_ACR` and `RESET_PC`, and every class K
register already reads as its parameter (`DBGID` of a family wherever the reset ACR may reach it); no program is placed
(log 9), and the run is already at its end (log 12). Of the machine `State.reset` holds no platform profile is known,
so the policy is `raise` (R177) and `STABLE_EXTRA` is empty (R8); its `CSTATE` can hold every ACR (log 13).
Rests on the spec's decisions D6, D8 and D14; the parameters are free otherwise (log 2). -/
def Obligations.ResetValues : Prop :=
  (∀ c : Config,
    (StateOf.reset c).acr = c.resetAcr ∧ (StateOf.reset c).pc = c.resetPc ∧
    ssrRead 0x000021#24 (StateOf.reset c) = .next (c.constLxlcid, StateOf.reset c) ∧
    ssrRead 0x000022#24 (StateOf.reset c) = .next (c.constVendor, StateOf.reset c) ∧
    ssrRead 0x000023#24 (StateOf.reset c) = .next (c.constVersion, StateOf.reset c) ∧
    ssrRead 0x000024#24 (StateOf.reset c) = .next (c.constLcfr, StateOf.reset c) ∧
    (∀ n : BitVec 4, n.toNat < c.nacr → MayReach (StateOf.reset c) (mgr n 0x80#8) →
      ssrRead (mgr n 0x80#8) (StateOf.reset c) = .next (c.constDbgid[n.toNat]'n.isLt, StateOf.reset c)) ∧
    step (StateOf.reset c).state = .fault .endOfRun) ∧
  State.reset = (StateOf.reset Config.chip).state ∧ Config.chip.resetAcr < Config.chip.nacr ∧
  Config.chip.HoldsEveryAcr ∧ Config.chip.otherAcrPolicy = none ∧ Config.chip.policy = .raise ∧ Config.chip.stableExtra = []

/-! ## Widths, long forms and banks -/

/-- R5: a machine takes `XLEN` as an argument, and every SSR that stores what is written stores each of the `2^XLEN`
values of its machine, whole. -/
def Obligations.EverySsrIsXlenWide : Prop :=
  (∀ xlen : Nat, ∃ c : Config, c.xlen = xlen) ∧
  ∀ (c : Config) (s : StateOf c) (id : SsrId) (v : Nat), v < 2 ^ c.xlen →
    ((s.storeSsr id (BitVec.ofNat c.xlen v)).storedSsr id).toNat = v ∧ (s.storedSsr id).toNat < 2 ^ c.xlen

/-- R6, R7, R8: exactly the widths from 48 up and the counts of ACRs from 2 to 16 belong to some machine that meets
R8's constraints, whatever the policy.
The bounds are inferences of the spec's own (R6, R7; D1, D2). -/
def Obligations.AdmittedWidthsAndFamilies : Prop :=
  ∀ (xlen nacr : Nat) (p : Option OtherAcrPolicy),
    (48 ≤ xlen ∧ 2 ≤ nacr ∧ nacr ≤ 16) ↔
      ∃ c : Config, c.wf = true ∧ c.xlen = xlen ∧ c.nacr = nacr ∧ c.otherAcrPolicy = p

/-- R8: a machine takes `ACR_OF_CSTATE` and `EBARG_PACK` as arguments: from every machine, whatever two functions of
R8's types are put in their place, there is a machine that has them and all its other parameters.
That every function can be given as plain data is logs 13 and 24. -/
def Obligations.EveryLayoutAndPackingHasAMachine : Prop :=
  ∀ (c : Config) (f : Word c.xlen → Nat) (g : BitVec 16 → BitVec 16 → BitVec 16 → Word c.xlen),
    c.wf = true → (∀ v, f v < c.nacr) →
    ∃ (l : CstateLayout c.xlen) (p : EbargPacking c.xlen),
      { c with cstateLayout := l, ebargPacking := p }.wf = true ∧
      (∀ v : Word c.xlen, { c with cstateLayout := l, ebargPacking := p }.acrOfCstate v = f v) ∧
      (∀ i0 i1 i2, { c with cstateLayout := l, ebargPacking := p }.ebargPack i0 i1 i2 = g i0 i1 i2)

/-- R25, R8: on a machine whose `CSTATE` holds the active ACR in a bit field that lies inside the word and has room for
every ACR number, each ACR has a `CSTATE` value, and what a read of `CSTATE` returns has the active ACR in that field,
or, if the ACR is the one that stands for the field's other values, may have one of those in it.
The field as a form of the parameter is the model's (log 13). -/
def Obligations.CstateFieldHoldsTheActiveAcr : Prop :=
  ∀ (c : Config) (lo len other : Nat), c.cstateLayout = .field lo len other → lo + len ≤ c.xlen → c.nacr ≤ 2 ^ len →
    c.HoldsEveryAcr ∧
    ∀ s : StateOf c, s.acr < c.nacr → ∃ v, ssrRead 0x000020#24 s = .next (v, s.useDraw) ∧
      ((v.extractLsb' lo len).toNat = s.acr ∨ (s.acr = other ∧ c.nacr ≤ (v.extractLsb' lo len).toNat))

/-- R83, R84 under the recommended `EBARG_PACK` (D21): the packed word is the low 16 bits of the three registers, item 0
lowest, zero-extended; on a machine of at least 48 bits each item is found in its sixteen bits and no bit above them is
set. -/
def Obligations.RecommendedPackingOfEbargWords : Prop :=
  ∀ (c : Config), c.ebargPacking = .recommended → ∀ r0 r1 r2 : Word c.xlen,
    c.ebargPack (r0.setWidth 16) (r1.setWidth 16) (r2.setWidth 16) = packRecommended r0 r1 r2 ∧
    (48 ≤ c.xlen → (packRecommended r0 r1 r2).extractLsb' 0 16 = r0.extractLsb' 0 16 ∧
      (packRecommended r0 r1 r2).extractLsb' 16 16 = r1.extractLsb' 0 16 ∧
      (packRecommended r0 r1 r2).extractLsb' 32 16 = r2.extractLsb' 0 16 ∧ (packRecommended r0 r1 r2).toNat < 2 ^ 48)

/-- R152: the 48-bit forms carry the whole 24-bit identifier, and an identifier that does not fit in 12 bits, such as
every `0x1Fxx`, has a 48-bit form and no 32-bit one. -/
def Obligations.LongFormsCarryTheWholeIdentifier : Prop :=
  (∀ (rd rs : Nat) (f : BitVec 24), (Form.hlSsrget rd f).lengthBits = 48 ∧ (Form.hlSsrset f rs).lengthBits = 48 ∧
    decodeForm (.hlSsrget rd f) = .hlSsrget rd f ∧ decodeForm (.hlSsrset f rs) = .hlSsrset f rs) ∧
  (∀ (c : Config) (rd rs : Nat) (id : SsrId), 0x000FFF < id.toNat → c.hasGpr rd = true → c.hasGpr rs = true →
    encode c (.hlSsrget rd id) = some (.hlSsrget rd id) ∧ encode c (.hlSsrset id rs) = some (.hlSsrset id rs) ∧
    encode c (.ssrget rd id) = none ∧ encode c (.ssrset id rs) = none ∧ encode c (.ssrswap rd id rs) = none) ∧
  ∀ xx : BitVec 8, 0x000FFF < (mgr 1#4 xx).toNat

/-- R190: each register of the trap bank has one copy for every manager ACR, at `mgr(n, xx)`, and each copy has its
own stored value. -/
def Obligations.TrapBanksAreSeparate : Prop :=
  (∀ (nacr : Nat) (n : BitVec 4) (xx : BitVec 8), n.toNat < nacr → trapBank xx.toNat = true →
    ∃ r, findRow nacr (mgr n xx) = some r ∧ r.place = .eachAcr xx ∧ r.access = .rw) ∧
  ∀ (c : Config) (s : StateOf c) (n m : BitVec 4) (xx yy : BitVec 8) (v : Word c.xlen), n ≠ m ∨ xx ≠ yy →
    (s.storeSsr (mgr n xx) v).storedSsr (mgr m yy) = s.storedSsr (mgr m yy)
end

