-- ==== Sys2Proof/Laws/Cells.lean ====
section
/-! SUPPORT. The laws of sparse data: a read after a write, the other keys, and the canonical form. -/

namespace Sys2Proof.Machine

variable {α : Type}

@[simp] theorem cellAt_putCell_same (l : List (Nat × α)) (a : Nat) (v : α) : cellAt (putCell l a v) a = some v := by
  induction l with
  | nil => simp [putCell, cellAt]
  | cons e rest ih =>
    obtain ⟨k, w⟩ := e
    unfold putCell
    split_ifs with h1 h2
    · simp [cellAt]
    · simp [cellAt]
    · simp [cellAt, Ne.symm h2, ih]

theorem cellAt_putCell_other (l : List (Nat × α)) {a b : Nat} (v : α) (h : b ≠ a) :
    cellAt (putCell l a v) b = cellAt l b := by
  induction l with
  | nil => simp [putCell, cellAt, Ne.symm h]
  | cons e rest ih =>
    obtain ⟨k, w⟩ := e
    unfold putCell
    split_ifs with h1 h2
    · simp [cellAt, Ne.symm h]
    · subst h2; simp [cellAt, Ne.symm h]
    · simp [cellAt, ih]

/-- Every entry after a write is the written one or was there before. -/
theorem mem_putCell {l : List (Nat × α)} {a : Nat} {v : α} {e : Nat × α} (h : e ∈ putCell l a v) :
    e = (a, v) ∨ e ∈ l := by
  induction l with
  | nil => left; simpa [putCell] using h
  | cons f rest ih =>
    obtain ⟨k, w⟩ := f
    unfold putCell at h
    split_ifs at h with h1 h2
    · rcases List.mem_cons.1 h with h | h
      · exact .inl h
      · exact .inr h
    · rcases List.mem_cons.1 h with h | h
      · exact .inl h
      · exact .inr (List.mem_cons_of_mem _ h)
    · rcases List.mem_cons.1 h with h | h
      · exact .inr (h ▸ List.mem_cons_self ..)
      · exact (ih h).imp_right (List.mem_cons_of_mem _)

theorem rising_putCell {l : List (Nat × α)} (a : Nat) (v : α) (h : rising l = true) :
    rising (putCell l a v) = true := by
  induction l with
  | nil => simp [putCell, rising]
  | cons e rest ih =>
    obtain ⟨k, w⟩ := e
    simp only [rising, Bool.and_eq_true, List.all_eq_true, decide_eq_true_eq] at h
    unfold putCell
    split_ifs with h1 h2
    · simp only [rising, Bool.and_eq_true, List.all_eq_true, decide_eq_true_eq, List.mem_cons]
      refine ⟨?_, h⟩
      rintro x (rfl | hx)
      · exact h1
      · exact h1.trans (h.1 x hx)
    · subst h2
      simpa only [rising, Bool.and_eq_true, List.all_eq_true, decide_eq_true_eq] using h
    · simp only [rising, Bool.and_eq_true, List.all_eq_true, decide_eq_true_eq]
      refine ⟨fun x hx => ?_, ih h.2⟩
      rcases mem_putCell hx with rfl | hx
      · dsimp only; omega
      · exact h.1 x hx

end Sys2Proof.Machine
end

