-- ==== Sys2Proof/Laws/State.lean ====
section
/-! SUPPORT. What each update of the state does to each field, true by rfl, so that no later proof unfolds a record
update. -/

namespace Sys2Proof.Machine

variable {c : Config}

@[simp] theorem StateOf.writeGpr_pc (s : StateOf c) (i : Nat) (v : Word c.xlen) : (s.writeGpr i v).pc = s.pc := rfl
@[simp] theorem StateOf.writeGpr_acr (s : StateOf c) (i : Nat) (v : Word c.xlen) : (s.writeGpr i v).acr = s.acr := rfl
@[simp] theorem StateOf.writeGpr_gpr (s : StateOf c) (i : Nat) (v : Word c.xlen) : (s.writeGpr i v).gpr = putCell s.gpr i v := rfl
@[simp] theorem StateOf.writeGpr_ssr (s : StateOf c) (i : Nat) (v : Word c.xlen) : (s.writeGpr i v).ssr = s.ssr := rfl
@[simp] theorem StateOf.writeGpr_draws (s : StateOf c) (i : Nat) (v : Word c.xlen) : (s.writeGpr i v).draws = s.draws := rfl
@[simp] theorem StateOf.writeGpr_program (s : StateOf c) (i : Nat) (v : Word c.xlen) : (s.writeGpr i v).program = s.program := rfl
@[simp] theorem StateOf.writeGpr_mem (s : StateOf c) (i : Nat) (v : Word c.xlen) : (s.writeGpr i v).mem = s.mem := rfl

@[simp] theorem StateOf.storeSsr_pc (s : StateOf c) (id : SsrId) (v : Word c.xlen) : (s.storeSsr id v).pc = s.pc := rfl
@[simp] theorem StateOf.storeSsr_acr (s : StateOf c) (id : SsrId) (v : Word c.xlen) : (s.storeSsr id v).acr = s.acr := rfl
@[simp] theorem StateOf.storeSsr_gpr (s : StateOf c) (id : SsrId) (v : Word c.xlen) : (s.storeSsr id v).gpr = s.gpr := rfl
@[simp] theorem StateOf.storeSsr_ssr (s : StateOf c) (id : SsrId) (v : Word c.xlen) : (s.storeSsr id v).ssr = putCell s.ssr id.toNat v := rfl
@[simp] theorem StateOf.storeSsr_draws (s : StateOf c) (id : SsrId) (v : Word c.xlen) : (s.storeSsr id v).draws = s.draws := rfl
@[simp] theorem StateOf.storeSsr_program (s : StateOf c) (id : SsrId) (v : Word c.xlen) : (s.storeSsr id v).program = s.program := rfl
@[simp] theorem StateOf.storeSsr_mem (s : StateOf c) (id : SsrId) (v : Word c.xlen) : (s.storeSsr id v).mem = s.mem := rfl

@[simp] theorem StateOf.advance_pc (s : StateOf c) (len : Nat) : (s.advance len).pc = s.pc + BitVec.ofNat c.xlen len := rfl
@[simp] theorem StateOf.advance_acr (s : StateOf c) (len : Nat) : (s.advance len).acr = s.acr := rfl
@[simp] theorem StateOf.advance_gpr (s : StateOf c) (len : Nat) : (s.advance len).gpr = s.gpr := rfl
@[simp] theorem StateOf.advance_ssr (s : StateOf c) (len : Nat) : (s.advance len).ssr = s.ssr := rfl
@[simp] theorem StateOf.advance_draws (s : StateOf c) (len : Nat) : (s.advance len).draws = s.draws := rfl
@[simp] theorem StateOf.advance_program (s : StateOf c) (len : Nat) : (s.advance len).program = s.program := rfl
@[simp] theorem StateOf.advance_mem (s : StateOf c) (len : Nat) : (s.advance len).mem = s.mem := rfl

@[simp] theorem StateOf.useDraw_pc (s : StateOf c) : (s.useDraw).pc = s.pc := rfl
@[simp] theorem StateOf.useDraw_acr (s : StateOf c) : (s.useDraw).acr = s.acr := rfl
@[simp] theorem StateOf.useDraw_gpr (s : StateOf c) : (s.useDraw).gpr = s.gpr := rfl
@[simp] theorem StateOf.useDraw_ssr (s : StateOf c) : (s.useDraw).ssr = s.ssr := rfl
@[simp] theorem StateOf.useDraw_draws (s : StateOf c) : (s.useDraw).draws = s.draws + 1 := rfl
@[simp] theorem StateOf.useDraw_program (s : StateOf c) : (s.useDraw).program = s.program := rfl
@[simp] theorem StateOf.useDraw_mem (s : StateOf c) : (s.useDraw).mem = s.mem := rfl

@[simp] theorem StateOf.load_pc (s : StateOf c) (base : Word c.xlen) (terms : List Instr) : (s.load base terms).pc = base := rfl
@[simp] theorem StateOf.load_acr (s : StateOf c) (base : Word c.xlen) (terms : List Instr) : (s.load base terms).acr = s.acr := rfl
@[simp] theorem StateOf.load_gpr (s : StateOf c) (base : Word c.xlen) (terms : List Instr) : (s.load base terms).gpr = s.gpr := rfl
@[simp] theorem StateOf.load_ssr (s : StateOf c) (base : Word c.xlen) (terms : List Instr) : (s.load base terms).ssr = s.ssr := rfl
@[simp] theorem StateOf.load_draws (s : StateOf c) (base : Word c.xlen) (terms : List Instr) : (s.load base terms).draws = s.draws := rfl
@[simp] theorem StateOf.load_program (s : StateOf c) (base : Word c.xlen) (terms : List Instr) : (s.load base terms).program = { base := base, terms := terms } := rfl
@[simp] theorem StateOf.load_mem (s : StateOf c) (base : Word c.xlen) (terms : List Instr) : (s.load base terms).mem = s.mem := rfl

@[simp] theorem StateOf.placeBytes_pc (s : StateOf c) (bs : List Byte) : (s.placeBytes bs).pc = s.pc := rfl
@[simp] theorem StateOf.placeBytes_acr (s : StateOf c) (bs : List Byte) : (s.placeBytes bs).acr = s.acr := rfl
@[simp] theorem StateOf.placeBytes_gpr (s : StateOf c) (bs : List Byte) : (s.placeBytes bs).gpr = s.gpr := rfl
@[simp] theorem StateOf.placeBytes_ssr (s : StateOf c) (bs : List Byte) : (s.placeBytes bs).ssr = s.ssr := rfl
@[simp] theorem StateOf.placeBytes_draws (s : StateOf c) (bs : List Byte) : (s.placeBytes bs).draws = s.draws := rfl
@[simp] theorem StateOf.placeBytes_program (s : StateOf c) (bs : List Byte) : (s.placeBytes bs).program = { base := s.pc, terms := [] } := rfl
@[simp] theorem StateOf.placeBytes_mem (s : StateOf c) (bs : List Byte) : (s.placeBytes bs).mem = s.mem.writeBytes s.pc bs := rfl

@[simp] theorem StateOf.reset_pc (c : Config) : (StateOf.reset c).pc = c.resetPc := rfl
@[simp] theorem StateOf.reset_acr (c : Config) : (StateOf.reset c).acr = c.resetAcr := rfl
@[simp] theorem StateOf.reset_gpr (c : Config) : (StateOf.reset c).gpr = [] := rfl
@[simp] theorem StateOf.reset_ssr (c : Config) : (StateOf.reset c).ssr = [] := rfl
@[simp] theorem StateOf.reset_draws (c : Config) : (StateOf.reset c).draws = 0 := rfl
@[simp] theorem StateOf.reset_program (c : Config) : (StateOf.reset c).program = { base := c.resetPc, terms := [] } := rfl
@[simp] theorem StateOf.reset_mem (c : Config) : (StateOf.reset c).mem = [] := rfl

end Sys2Proof.Machine
end

