-- ==== Sys2Proof/Laws/Registers.lean ====
section
/-! SUPPORT. Reads after writes of the general registers, the SSR file and the instruction bytes. -/

namespace Sys2Proof.Machine

variable {c : Config} {xlen : Nat}

@[simp] theorem readGpr_writeGpr_same (s : StateOf c) (i : Nat) (v : Word c.xlen) : (s.writeGpr i v).readGpr i = v := by
  simp [StateOf.readGpr]

theorem readGpr_writeGpr_other (s : StateOf c) {i j : Nat} (v : Word c.xlen) (h : j ≠ i) :
    (s.writeGpr i v).readGpr j = s.readGpr j := by
  simp [StateOf.readGpr, cellAt_putCell_other _ _ h]

@[simp] theorem readGpr_storeSsr (s : StateOf c) (id : SsrId) (v : Word c.xlen) (i : Nat) :
    (s.storeSsr id v).readGpr i = s.readGpr i := rfl

@[simp] theorem readGpr_advance (s : StateOf c) (len i : Nat) : (s.advance len).readGpr i = s.readGpr i := rfl

@[simp] theorem readGpr_useDraw (s : StateOf c) (i : Nat) : s.useDraw.readGpr i = s.readGpr i := rfl

@[simp] theorem storedSsr_storeSsr_same (s : StateOf c) (id : SsrId) (v : Word c.xlen) : (s.storeSsr id v).storedSsr id = v := by
  simp [StateOf.storedSsr]

theorem storedSsr_storeSsr_other (s : StateOf c) {id other : SsrId} (v : Word c.xlen) (h : other ≠ id) :
    (s.storeSsr id v).storedSsr other = s.storedSsr other := by
  have h' : other.toNat ≠ id.toNat := fun e => h (BitVec.eq_of_toNat_eq e)
  simp [StateOf.storedSsr, cellAt_putCell_other _ _ h']

@[simp] theorem storedSsr_writeGpr (s : StateOf c) (i : Nat) (v : Word c.xlen) (id : SsrId) :
    (s.writeGpr i v).storedSsr id = s.storedSsr id := rfl

@[simp] theorem storedSsr_advance (s : StateOf c) (len : Nat) (id : SsrId) :
    (s.advance len).storedSsr id = s.storedSsr id := rfl

@[simp] theorem storedSsr_useDraw (s : StateOf c) (id : SsrId) : s.useDraw.storedSsr id = s.storedSsr id := rfl

/-- A byte placed keeps the canonical form. -/
theorem Memory.write_wf {m : Memory} (a : Word xlen) (b : Byte) (h : m.wf xlen = true) : (m.write a b).wf xlen = true := by
  simp only [Memory.wf, Bool.and_eq_true, List.all_eq_true, decide_eq_true_eq] at h ⊢
  refine ⟨rising_putCell _ _ h.1, fun e he => ?_⟩
  rcases mem_putCell he with rfl | he
  · exact a.isLt
  · exact h.2 e he

/-- Bytes placed keep the canonical form. -/
theorem Memory.writeBytes_wf {m : Memory} (a : Word xlen) (bs : List Byte) (h : m.wf xlen = true) :
    (m.writeBytes a bs).wf xlen = true := by
  induction bs generalizing m a with
  | nil => exact h
  | cons b bs ih => exact ih (a + 1) (Memory.write_wf a b h)

@[simp] theorem Memory.read_write_same (m : Memory) (a : Word xlen) (b : Byte) : (m.write a b).read a = some b := by
  simp [Memory.read, Memory.write]

theorem Memory.read_write_other (m : Memory) {a b' : Word xlen} (b : Byte) (h : b' ≠ a) :
    (m.write a b).read b' = m.read b' :=
  cellAt_putCell_other _ _ (fun e => h (BitVec.eq_of_toNat_eq e))

/-- Reset holds no instruction byte. -/
theorem reset_mem_wf (c : Config) : (StateOf.reset c).mem.wf c.xlen = true := rfl

end Sys2Proof.Machine
end

