-- ==== Sys2Proof/Laws/SsrTable.lean ====
section
/-! SUPPORT. The register list: a row found is a row of the table that takes in the identifier, and what the table's
rows have in common. -/

namespace Sys2Proof.Machine

theorem findRow_mem {nacr : Nat} {id : SsrId} {r : SsrRow} (h : findRow nacr id = some r) :
    r ∈ ssrTable ∧ r.place.names id = true := by
  unfold findRow at h
  split_ifs at h
  exact ⟨List.mem_of_find?_eq_some h, List.find?_some (p := fun q : SsrRow => q.place.names id) h⟩

/-- A manager identifier that is defined belongs to an existing family (R33, D27). -/
theorem findRow_family {nacr : Nat} {id : SsrId} {r : SsrRow} (h : findRow nacr id = some r)
    (hm : isManager id = true) : (familyOf id).toNat < nacr := by
  unfold findRow at h
  split_ifs at h with hc
  simp only [hm, Bool.true_and, decide_eq_true_eq] at hc
  exact Nat.lt_of_not_le hc

/-- Every register of class S or L is read-write, every register of class K or T read-only, and no register of class
X is read-only (R30, R29's unreachable case). -/
theorem class_access : ∀ r ∈ ssrTable,
    (r.cls = .s ∨ r.cls = .l → r.access = .rw) ∧ (r.cls = .x → r.access ≠ .ro) ∧
    (r.cls ≠ .s → r.cls ≠ .l → r.cls ≠ .x → r.access = .ro) := by decide

theorem findRow_class_access {nacr : Nat} {id : SsrId} {r : SsrRow} (h : findRow nacr id = some r) :
    (r.cls = .s ∨ r.cls = .l → r.access = .rw) ∧ (r.cls = .x → r.access ≠ .ro) ∧
    (r.cls ≠ .s → r.cls ≠ .l → r.cls ≠ .x → r.access = .ro) := class_access r (findRow_mem h).1

/-- `named12` gives back the identifier of a well-formed 32-bit form (R156). -/
theorem named12_of_fits {id : SsrId} (h : fits12 id = true) : named12 id = id := by
  have h0 : id.extractLsb' 12 12 = 0#12 := by simpa [fits12] using h
  have hn : id.toNat >>> 12 % 2 ^ 12 = 0 := by
    have := congrArg BitVec.toNat h0
    simpa [BitVec.extractLsb'_toNat] using this
  apply BitVec.eq_of_toNat_eq
  have := id.isLt
  simp only [named12, idOf12, BitVec.toNat_setWidth]
  rw [Nat.shiftRight_eq_div_pow] at hn
  omega

end Sys2Proof.Machine
end

