-- ==== Sys2Proof/Laws/Access.lean ====
section
/-! SUPPORT. What the two SSR access primitives can do, said once; and what an instruction and a step can change. -/

namespace Sys2Proof.Machine

variable {c : Config}

@[simp] theorem chain_next {α β : Type} (a : α) (f : α → Answer β) : chain (.next a) f = f a := rfl

@[simp] theorem chain_fault {α β : Type} (e : Fault) (f : α → Answer β) :
    chain (Host.Outcome.fault e : Answer α) f = .fault e := rfl

@[simp] theorem chain_refused {α β : Type} (r : Refusal) (f : α → Answer β) :
    chain (Host.Outcome.refused r : Answer α) f = .refused r := rfl

theorem chain_eq_next {α β : Type} {a : Answer α} {f : α → Answer β} {t : β} :
    chain a f = .next t ↔ ∃ x, a = .next x ∧ f x = .next t := by
  cases a <;> simp

/-! ## Reads -/

theorem ssrRead_undefined {id : SsrId} {s : StateOf c} (h : findRow c.nacr id = none) :
    ssrRead id s = .fault (.ssrUndefined id) := by simp [ssrRead, h, raise]

/-- A permitted read answers by the register's class. -/
theorem ssrRead_permitted {id : SsrId} {s : StateOf c} {r : SsrRow} (hr : findRow c.nacr id = some r)
    (hp : isManager id = true → mayAccessManager s.acr = true) (ha : r.access ≠ .wo) :
    ssrRead id s = .next (readByClass r id s) := by
  unfold ssrRead
  rw [hr]
  cases hm : isManager id <;> simp_all

theorem ssrRead_barred_raise {id : SsrId} {s : StateOf c} {r : SsrRow} (hr : findRow c.nacr id = some r)
    (hm : isManager id = true) (ha : mayAccessManager s.acr = false) (hp : c.policy = .raise) :
    ssrRead id s = .fault (.ssrPrivilege id s.acr) := by simp [ssrRead, hr, hm, ha, hp, raise]

theorem ssrRead_barred_ignore {id : SsrId} {s : StateOf c} {r : SsrRow} (hr : findRow c.nacr id = some r)
    (hm : isManager id = true) (ha : mayAccessManager s.acr = false) (hp : c.policy = .ignore) :
    ssrRead id s = .next (draw s) := by simp [ssrRead, hr, hm, ha, hp]

/-- A read changes nothing but the count of free values used (R28). -/
theorem readByClass_state (r : SsrRow) (id : SsrId) (s : StateOf c) :
    (readByClass r id s).2 = s ∨ (readByClass r id s).2 = s.useDraw := by
  unfold readByClass
  split
  · exact .inl rfl
  · exact .inr rfl
  · exact .inl rfl
  · split_ifs
    · exact .inl rfl
    · exact .inr rfl
  · split_ifs <;> exact .inr rfl

theorem ssrRead_state {id : SsrId} {s : StateOf c} {p : Word c.xlen × StateOf c} (h : ssrRead id s = .next p) :
    p.2 = s ∨ p.2 = s.useDraw := by
  unfold ssrRead at h
  split at h
  · cases h
  · split_ifs at h
    · split at h
      · cases h
      · cases h; exact .inr rfl
    · cases h
    · cases h; exact readByClass_state ..

/-! ## Writes -/

theorem ssrWrite_undefined {id : SsrId} {v : Word c.xlen} {s : StateOf c} (h : findRow c.nacr id = none) :
    ssrWrite id v s = .fault (.ssrUndefined id) := by simp [ssrWrite, h, raise]

/-- A permitted write of a class S or L register stores every bit (R29, D28). -/
theorem ssrWrite_permitted {id : SsrId} {v : Word c.xlen} {s : StateOf c} {r : SsrRow} (hr : findRow c.nacr id = some r)
    (hp : isManager id = true → mayAccessManager s.acr = true) (hc : r.cls = .s ∨ r.cls = .l) :
    ssrWrite id v s = .next (s.storeSsr id v) := by
  have ha := (findRow_class_access hr).1 hc
  unfold ssrWrite
  rw [hr]
  rcases hc with hc | hc <;> cases hm : isManager id <;> simp_all [writeByClass]

theorem ssrWrite_barred_raise {id : SsrId} {v : Word c.xlen} {s : StateOf c} {r : SsrRow}
    (hr : findRow c.nacr id = some r) (hm : isManager id = true) (ha : mayAccessManager s.acr = false)
    (hp : c.policy = .raise) :
    ssrWrite id v s = .fault (.ssrPrivilege id s.acr) := by simp [ssrWrite, hr, hm, ha, hp, raise]

theorem ssrWrite_barred_ignore {id : SsrId} {v : Word c.xlen} {s : StateOf c} {r : SsrRow}
    (hr : findRow c.nacr id = some r) (hm : isManager id = true) (ha : mayAccessManager s.acr = false)
    (hp : c.policy = .ignore) : ssrWrite id v s = .next s := by simp [ssrWrite, hr, hm, ha, hp]

/-- A write that completes was ignored, or stored a register of class S or L. -/
theorem ssrWrite_state {id : SsrId} {v : Word c.xlen} {s t : StateOf c} (h : ssrWrite id v s = .next t) :
    (t = s ∧ isManager id = true ∧ mayAccessManager s.acr = false) ∨
    (t = s.storeSsr id v ∧ isStored c.nacr id = true ∧
      (isManager id = true → mayAccessManager s.acr = true)) := by
  unfold ssrWrite at h
  split at h
  · cases h
  next r hr =>
    split_ifs at h with hm ha
    · split at h
      · cases h
      · cases h; exact .inl ⟨rfl, by simpa using hm⟩
    · cases h
    · have hp : isManager id = true → mayAccessManager s.acr = true := by simpa using hm
      unfold writeByClass at h
      split at h <;> cases h
      · exact .inr ⟨rfl, by simp_all [isStored], hp⟩
      · exact .inr ⟨rfl, by simp_all [isStored], hp⟩

/-! ## Instructions and steps -/

theorem readToGpr_next {rd len : Nat} {id : SsrId} {s t : StateOf c} (h : readToGpr rd id len s = .next t) :
    ∃ p, ssrRead id s = .next p ∧ (p.2 = s ∨ p.2 = s.useDraw) ∧ t = (p.2.writeGpr rd p.1).advance len := by
  obtain ⟨p, hp, hn⟩ := chain_eq_next.1 h
  cases hn
  exact ⟨p, hp, ssrRead_state hp, rfl⟩

theorem writeFromGpr_next {rs len : Nat} {id : SsrId} {s t : StateOf c} (h : writeFromGpr id rs len s = .next t) :
    ∃ u, ssrWrite id (s.readGpr rs) s = .next u ∧ t = u.advance len := by
  obtain ⟨u, hu, hn⟩ := chain_eq_next.1 h
  cases hn
  exact ⟨u, hu, rfl⟩

theorem swapWithGpr_next {rd rs len : Nat} {id : SsrId} {s t : StateOf c}
    (h : swapWithGpr rd id rs len s = .next t) :
    ∃ p u, ssrRead id s = .next p ∧ (p.2 = s ∨ p.2 = s.useDraw) ∧ ssrWrite id (s.readGpr rs) p.2 = .next u ∧
      t = (u.writeGpr rd p.1).advance len := by
  obtain ⟨p, hp, h⟩ := chain_eq_next.1 h
  obtain ⟨u, hu, hn⟩ := chain_eq_next.1 h
  cases hn
  exact ⟨p, u, hp, ssrRead_state hp, hu, rfl⟩

/-- What an instruction does to the part of the state that changes, so that no later proof unfolds `exec`: `exec` is
this, with the parameters kept (`exec_state`). -/
def bodyOf (i : Instr) (s : StateOf c) : Answer (StateOf c) :=
  match i with
  | .ssrget rd id => readToGpr rd (named12 id) 4 s
  | .ssrset id rs => writeFromGpr (named12 id) rs 4 s
  | .ssrswap rd id rs => swapWithGpr rd (named12 id) rs 4 s
  | .hlSsrget rd id => readToGpr rd id 6 s
  | .hlSsrset id rs => writeFromGpr id rs 6 s
  | .cSsrget rd code =>
    match remapOf c code with
    | none => .refused (.cRemapMissing code)
    | some id => readToGpr rd id 2 s

/-- `exec` works on what changes and keeps the parameters. -/
theorem exec_state (i : Instr) (s : StateOf c) : exec i s.state = chain (bodyOf i s) (fun t => .next t.state) := by
  cases i with
  | cSsrget rd code =>
    simp only [exec, execCSsrget, bodyOf]
    cases remapOf c code <;> rfl
  | _ => rfl

/-- An instruction that completes ends in a state of the same parameters. -/
theorem exec_eq_next {i : Instr} {s : StateOf c} {u : State} :
    exec i s.state = .next u ↔ ∃ t, u = t.state ∧ bodyOf i s = .next t := by
  rw [exec_state, chain_eq_next]
  exact ⟨fun ⟨t, h, e⟩ => ⟨t, by cases e; rfl, h⟩, fun ⟨t, e, h⟩ => ⟨t, h, by rw [e]⟩⟩

/-- What an instruction that completes can have done, said once for all six: it moved `pc` by its length, wrote at
most the general register it names as its destination, at most one SSR of class S or L that it may reach, used at most
one free value, and left everything else alone. -/
structure Changes (i : Instr) (s t : StateOf c) : Prop where
  acr : t.acr = s.acr
  program : t.program = s.program
  mem : t.mem = s.mem
  pc : t.pc = s.pc + BitVec.ofNat c.xlen i.lengthBytes
  gpr : t.gpr = s.gpr ∨ ∃ rd v, i.destOf = some rd ∧ t.gpr = putCell s.gpr rd v
  ssr : t.ssr = s.ssr ∨ ∃ id v, t.ssr = putCell s.ssr id.toNat v ∧ isStored c.nacr id = true ∧
    (isManager id = true → mayAccessManager s.acr = true)
  draws : t.draws = s.draws ∨ t.draws = s.draws + 1

theorem readToGpr_changes {i : Instr} {rd : Nat} {id : SsrId} {s t : StateOf c} (hd : i.destOf = some rd)
    (h : readToGpr rd id i.lengthBytes s = .next t) : Changes i s t := by
  obtain ⟨p, -, hp | hp, rfl⟩ := readToGpr_next h <;> constructor <;> simp [hp, hd]

theorem writeFromGpr_changes {i : Instr} {rs : Nat} {id : SsrId} {s t : StateOf c}
    (h : writeFromGpr id rs i.lengthBytes s = .next t) : Changes i s t := by
  obtain ⟨u, hu, rfl⟩ := writeFromGpr_next h
  obtain ⟨rfl, -, -⟩ | ⟨rfl, hs, hm⟩ := ssrWrite_state hu <;> constructor <;> simp
  exact .inr ⟨id, ⟨_, rfl⟩, hs, hm⟩

theorem swapWithGpr_changes {i : Instr} {rd rs : Nat} {id : SsrId} {s t : StateOf c} (hd : i.destOf = some rd)
    (h : swapWithGpr rd id rs i.lengthBytes s = .next t) : Changes i s t := by
  obtain ⟨p, u, -, hs, hu, rfl⟩ := swapWithGpr_next h
  obtain ⟨rfl, -, -⟩ | ⟨rfl, hst, hm⟩ := ssrWrite_state hu <;> obtain hs | hs := hs <;> constructor <;> simp_all <;>
    exact .inr ⟨id, ⟨_, rfl⟩, hst, hm⟩

theorem bodyOf_changes {i : Instr} {s t : StateOf c} (h : bodyOf i s = .next t) : Changes i s t := by
  cases i with
  | ssrget rd id => exact readToGpr_changes rfl h
  | ssrset id rs => exact writeFromGpr_changes (i := .ssrset id rs) h
  | ssrswap rd id rs => exact swapWithGpr_changes rfl h
  | hlSsrget rd id => exact readToGpr_changes rfl h
  | hlSsrset id rs => exact writeFromGpr_changes (i := .hlSsrset id rs) h
  | cSsrget rd code =>
    simp only [bodyOf] at h
    split at h
    · cases h
    · exact readToGpr_changes (i := .cSsrget rd code) rfl h

theorem exec_changes {i : Instr} {s : StateOf c} {u : State} (h : exec i s.state = .next u) :
    ∃ t : StateOf c, u = t.state ∧ Changes i s t := by
  obtain ⟨t, rfl, hb⟩ := exec_eq_next.1 h
  exact ⟨t, rfl, bodyOf_changes hb⟩

/-- A term that `fetch` answers is well-formed: an ill-formed one was refused (R156, R161). -/
theorem fetch_wellFormed {s : StateOf c} {i : Instr} (h : fetch s = .next i) : i.wellFormed c = true := by
  have key : ∀ j, checkTerm c j = .next i → i.wellFormed c = true := by
    intro j hj
    unfold checkTerm at hj
    split at hj
    · cases hj; assumption
    · cases hj
  unfold fetch at h
  split at h
  · exact key _ h
  · split at h
    · split at h <;> cases h
    · split at h
      · exact key _ h
      · cases h

/-- A step that completes ran the well-formed instruction at `pc`. -/
theorem step_next {s : StateOf c} {u : State} (h : step s.state = .next u) :
    ∃ i, fetch s = .next i ∧ i.wellFormed c = true ∧ exec i s.state = .next u := by
  obtain ⟨i, hf, hx⟩ := chain_eq_next.1 h
  exact ⟨i, hf, fetch_wellFormed hf, hx⟩

end Sys2Proof.Machine
end

