-- ==== Sys2Proof/Laws/Identifiers.lean ====
section
/-! SUPPORT. The parts of an identifier (R22), and what the register lookup answers for a manager identifier and for a
base identifier, so that no later proof unfolds the lookup. -/

namespace Sys2Proof.Machine

theorem mgr_toNat (n : BitVec 4) (xx : BitVec 8) : (mgr n xx).toNat = n.toNat * 0x1000 + 0xF00 + xx.toNat := by
  have hn := n.isLt
  have hx := xx.isLt
  simp only [mgr, BitVec.toNat_setWidth, BitVec.toNat_append, BitVec.toNat_ofNat]
  have e : n.toNat <<< 4 ||| 15 % 2 ^ 4 = n.toNat * 16 + 15 := by
    rw [Nat.shiftLeft_eq, Nat.mul_comm, ← Nat.two_pow_add_eq_or_of_lt (by decide)]; omega
  rw [e, Nat.shiftLeft_eq, Nat.mul_comm, ← Nat.two_pow_add_eq_or_of_lt hx]
  omega

theorem familyOf_toNat (id : SsrId) : (familyOf id).toNat = id.toNat / 2 ^ 12 % 2 ^ 4 := by
  simp [familyOf, BitVec.extractLsb'_toNat, Nat.shiftRight_eq_div_pow]

theorem numberOf_toNat (id : SsrId) : (numberOf id).toNat = id.toNat % 2 ^ 8 := by
  simp [numberOf, BitVec.extractLsb'_toNat]

theorem isManager_iff (id : SsrId) :
    isManager id = true ↔ id.toNat / 2 ^ 16 % 2 ^ 8 = 0 ∧ id.toNat / 2 ^ 8 % 2 ^ 4 = 15 := by
  simp [isManager, ← BitVec.toNat_inj, BitVec.extractLsb'_toNat, Nat.shiftRight_eq_div_pow]

@[simp] theorem isManager_mgr (n : BitVec 4) (xx : BitVec 8) : isManager (mgr n xx) = true := by
  rw [isManager_iff, mgr_toNat]; have := n.isLt; have := xx.isLt; omega

@[simp] theorem familyOf_mgr (n : BitVec 4) (xx : BitVec 8) : familyOf (mgr n xx) = n := by
  rw [← BitVec.toNat_inj, familyOf_toNat, mgr_toNat]; have := n.isLt; have := xx.isLt; omega

@[simp] theorem numberOf_mgr (n : BitVec 4) (xx : BitVec 8) : numberOf (mgr n xx) = xx := by
  rw [← BitVec.toNat_inj, numberOf_toNat, mgr_toNat]; have := n.isLt; have := xx.isLt; omega

/-- Every manager identifier is `mgr` of its own parts. -/
theorem eq_mgr {id : SsrId} (h : isManager id = true) : id = mgr (familyOf id) (numberOf id) := by
  rw [← BitVec.toNat_inj, mgr_toNat, familyOf_toNat, numberOf_toNat]
  have := (isManager_iff id).1 h
  have := id.isLt
  omega

/-- The rows outside the base table. -/
def familyRows : List SsrRow := managerRows ++ ebargRows ++ debugRows

/-- Whether a row outside the base table stands for register number `xx` of family `n`. -/
def SsrRow.isAt (r : SsrRow) (n : BitVec 4) (xx : BitVec 8) : Bool :=
  match r.place with
  | .base _ => false
  | .eachAcr y => xx == y
  | .acr1Only y => n == 1#4 && xx == y

/-- Whether a row is a base row, and of an identifier outside the manager families. -/
def SsrRow.isBase (r : SsrRow) : Bool :=
  match r.place with
  | .base k => !isManager k
  | _ => false

theorem baseRows_isBase : baseRows.all SsrRow.isBase = true := by decide

theorem familyRows_not_base : familyRows.all (fun r => match r.place with | .base _ => false | _ => true) = true := by
  decide

theorem baseRows_place {r : SsrRow} (h : r ∈ baseRows) : ∃ k, r.place = .base k ∧ isManager k = false := by
  have hb := List.all_eq_true.1 baseRows_isBase r h
  unfold SsrRow.isBase at hb
  split at hb
  next k hk => exact ⟨k, hk, by simpa using hb⟩
  · cases hb

theorem familyRows_place {r : SsrRow} (h : r ∈ familyRows) (k : SsrId) : r.place ≠ .base k := by
  intro hk
  have hb := List.all_eq_true.1 familyRows_not_base r h
  simp [hk] at hb

theorem ssrTable_eq : ssrTable = baseRows ++ familyRows := by simp [ssrTable, familyRows]

/-- The register a manager identifier names. -/
theorem findRow_mgr (nacr : Nat) (n : BitVec 4) (xx : BitVec 8) : findRow nacr (mgr n xx) =
    if nacr ≤ n.toNat then none else familyRows.find? (fun r => r.isAt n xx) := by
  have hb : baseRows.find? (fun r => r.place.names (mgr n xx)) = none := by
    rw [List.find?_eq_none]
    intro r hr hn
    obtain ⟨k, hp, hk⟩ := baseRows_place hr
    simp only [hp, Place.names, beq_iff_eq] at hn
    simp [← hn] at hk
  have he : ∀ r ∈ familyRows, r.place.names (mgr n xx) = r.isAt n xx := by
    intro r hr
    have := familyRows_place hr
    unfold Place.names SsrRow.isAt
    cases hp : r.place <;> simp_all
  unfold findRow
  simp only [isManager_mgr, familyOf_mgr, Bool.true_and, decide_eq_true_eq]
  rw [ssrTable_eq, List.find?_append, hb, Option.none_or, List.find?_congr he]

/-- The register a base identifier names. -/
theorem findRow_base {nacr : Nat} {id : SsrId} (h : isManager id = false) :
    findRow nacr id = baseRows.find? (fun r => r.place.names id) := by
  have hf : familyRows.find? (fun r => r.place.names id) = none := by
    rw [List.find?_eq_none]
    intro r hr
    have := familyRows_place hr
    unfold Place.names
    cases hp : r.place <;> simp_all
  unfold findRow
  rw [h, ssrTable_eq, List.find?_append, hf, Option.or_none]
  simp

end Sys2Proof.Machine
end

