-- ==== Sys2Proof/Laws/Layouts.lean ====
section
/-! SUPPORT. What a layout of `CSTATE` and a packing of the EBARG words answer. -/

namespace Sys2Proof.Machine

variable {xlen : Nat}

theorem CstateLayout.acrOf_table (nacr : Nat) (rows : List (Word xlen × Nat)) (other : Nat) (v : Word xlen) :
    (CstateLayout.table rows other).acrOf nacr v = (rows.lookup v).getD other := rfl

theorem CstateLayout.acrOf_field (nacr lo len other : Nat) (v : Word xlen) :
    (CstateLayout.field lo len other).acrOf nacr v =
      if (v.extractLsb' lo len).toNat < nacr then (v.extractLsb' lo len).toNat else other := rfl

theorem EbargPacking.pack_table (rows : List (BitVec 48 × Word xlen)) (other : Word xlen) (i0 i1 i2 : BitVec 16) :
    (EbargPacking.table rows other).pack i0 i1 i2 = (rows.lookup (i2 ++ i1 ++ i0)).getD other := rfl

theorem EbargPacking.pack_recommended (i0 i1 i2 : BitVec 16) :
    (EbargPacking.recommended : EbargPacking xlen).pack i0 i1 i2 =
      i0.setWidth xlen <<< 0 ||| i1.setWidth xlen <<< 16 ||| i2.setWidth xlen <<< 32 := rfl

/-- The bits of three items side by side, item 0 lowest. -/
theorem items_getLsbD (i0 i1 i2 : BitVec 16) (k : Nat) :
    (i2 ++ i1 ++ i0).getLsbD k =
      if k < 16 then i0.getLsbD k else if k < 32 then i1.getLsbD (k - 16) else i2.getLsbD (k - 32) := by
  rw [BitVec.getLsbD_append, BitVec.getLsbD_append, Nat.sub_sub]
  by_cases h : k < 16
  · simp [h]
  · simp only [h, if_false, show k - 16 < 16 ↔ k < 32 by omega]

/-- What a list's row gives satisfies what all its rows satisfy. -/
theorem lookup_all {α β : Type} [DecidableEq α] {p : β → Prop} {rows : List (α × β)} (h : ∀ e ∈ rows, p e.2) {k : α}
    {v : β} (hk : rows.lookup k = some v) : p v := by
  induction rows with
  | nil => cases hk
  | cons e rest ih =>
    rw [List.lookup_cons] at hk
    split at hk
    · cases hk; exact h e (by simp)
    · exact ih (fun e he => h e (by simp [he])) hk

/-- The table of a function over a list of keys answers as the function does, on those keys. -/
theorem lookup_tabulate {α β : Type} [DecidableEq α] (f : α → β) {keys : List α} {k : α} (hk : k ∈ keys) :
    (keys.map (fun a => (a, f a))).lookup k = some (f k) := by
  induction keys with
  | nil => cases hk
  | cons a rest ih =>
    rw [List.map_cons, List.lookup_cons]
    split
    · next h => rw [eq_of_beq h]
    · next h => exact ih ((List.mem_cons.mp hk).resolve_left (fun e => by simp [e] at h))

/-- A well-formed layout gives ACR numbers below `NACR` only. -/
theorem CstateLayout.acrOf_lt {nacr : Nat} {l : CstateLayout xlen} (h : l.wf nacr = true) (v : Word xlen) :
    l.acrOf nacr v < nacr := by
  cases l with
  | field lo len other =>
    have ho : other < nacr := of_decide_eq_true h
    rw [CstateLayout.acrOf_field]
    split <;> assumption
  | table rows other =>
    simp only [CstateLayout.wf, Bool.and_eq_true, List.all_eq_true, decide_eq_true_eq] at h
    rw [CstateLayout.acrOf_table]
    cases hk : rows.lookup v with
    | none => exact h.2
    | some a => exact lookup_all (p := (· < nacr)) h.1 hk

end Sys2Proof.Machine

namespace Sys2Proof

open Machine

theorem Config.wf_layout {c : Config} (h : c.wf = true) : c.cstateLayout.wf c.nacr = true := by
  simp only [Config.wf, Bool.and_eq_true] at h
  exact h.1.1.2

/-- `ACR_OF_CSTATE` is a function to ACR numbers below `NACR` (R8). -/
theorem Config.acrOfCstate_lt {c : Config} (h : c.wf = true) (v : Word c.xlen) : c.acrOfCstate v < c.nacr :=
  CstateLayout.acrOf_lt (Config.wf_layout h) v

end Sys2Proof
end

