-- ==== Sys2Proof/Laws/PerInstr.lean ====
section
/-! SUPPORT. What the encoder answers; and facts about every instruction as syntax, one lemma per constructor. -/

namespace Sys2Proof

/-- The encoder answers the fields of a well-formed term, and of no other (R156, R160). -/
theorem encode_eq_some {c : Config} {i : Instr} {f : Form} :
    encode c i = some f ↔ i.wellFormed c = true ∧ formOf i = f := by
  simp [encode]

namespace Laws

/-- A term's length in bytes is its form's length in bits (R150). -/
def FormLength.Statement (i : Instr) : Prop :=
  ∀ (c : Config) (f : Form), encode c i = some f → f.lengthBits = 8 * i.lengthBytes

theorem FormLength.ssrget (rd : Nat) (id : SsrId) : FormLength.Statement (.ssrget rd id) := by
  rintro c _ h; obtain ⟨-, rfl⟩ := encode_eq_some.1 h; rfl

theorem FormLength.ssrset (id : SsrId) (rs : Nat) : FormLength.Statement (.ssrset id rs) := by
  rintro c _ h; obtain ⟨-, rfl⟩ := encode_eq_some.1 h; rfl

theorem FormLength.ssrswap (rd : Nat) (id : SsrId) (rs : Nat) : FormLength.Statement (.ssrswap rd id rs) := by
  rintro c _ h; obtain ⟨-, rfl⟩ := encode_eq_some.1 h; rfl

theorem FormLength.hlSsrget (rd : Nat) (id : SsrId) : FormLength.Statement (.hlSsrget rd id) := by
  rintro c _ h; obtain ⟨-, rfl⟩ := encode_eq_some.1 h; rfl

theorem FormLength.hlSsrset (id : SsrId) (rs : Nat) : FormLength.Statement (.hlSsrset id rs) := by
  rintro c _ h; obtain ⟨-, rfl⟩ := encode_eq_some.1 h; rfl

theorem FormLength.cSsrget (rd code : Nat) : FormLength.Statement (.cSsrget rd code) := by
  rintro c _ h; obtain ⟨-, rfl⟩ := encode_eq_some.1 h; rfl

end Laws

end Sys2Proof
end

