-- ==== Sys2Proof/Tests/Slice0.lean ====
section
/-! SUPPORT. The model's own tests, with results from 95_test_vectors.md (parameters as that file's opening states
them), and a concrete instance of the hypotheses of every statement that has some. -/

namespace Sys2Proof.Tests

open Sys2Proof Sys2Proof.Machine Sys2Proof.Claims

/-- The parameters of 95_test_vectors.md; the values of the constants are arbitrary. -/
def cfg2 : Config where
  xlen := 64
  nacr := 2
  otherAcrPolicy := some .raise
  gprCount := some 32
  cSsridWidth := 3
  cSsridRemap := [(0, 0x000000#24), (1, 0x000001#24)]
  constLxlcid := 0x11
  constVendor := 0x22
  constVersion := 0x33
  constLcfr := 0x44
  constDbgid := #v[0x80, 0x81, 0, 0, 0, 0, 0, 0, 0, 0, 0, 0, 0, 0, 0, 0]
  stableExtra := []
  cstateLayout := .field 8 4 1
  resetAcr := 0
  resetPc := 0
  endian := .little
  ebargPacking := .recommended
  cycleIsInstret := false

def cfg3 : Config := { cfg2 with nacr := 3 }

def cfg3Ignore : Config := { cfg3 with otherAcrPolicy := some .ignore }

/-- The least machine that R8 admits in width, 48 bits, with no platform profile known. -/
def cfg48 : Config := { Config.least with nacr := 3 }

/-- A state at `pc = 0x1000`. -/
def st (c : Config) (acr : Nat) (gpr ssr : List (Nat × Word c.xlen)) : StateOf c where
  pc := 0x1000
  acr := acr
  gpr := gpr
  ssr := ssr
  draws := 0
  program := { base := 0, terms := [] }
  mem := []

/-- That state with one term at `pc`. -/
def at1 {c : Config} (s : StateOf c) (i : Instr) : StateOf c := s.load s.pc [i]

/-- What a general register, an SSR and `pc` hold, as numbers. -/
def x (t : State) (i : Nat) : Nat := (t.body.readGpr i).toNat
def ssrOf (t : State) (id : SsrId) : Nat := (t.body.storedSsr id).toNat
def pcOf (t : State) : Nat := t.body.pc.toNat

def nextIs (a : Answer State) (f : State → Bool) : Bool :=
  match a with
  | .next t => f t
  | _ => false

def faultIs (a : Answer State) (f : Fault) : Bool :=
  match a with
  | .fault e => e == f
  | _ => false

def refusedIs (a : Answer State) (r : Refusal) : Bool :=
  match a with
  | .refused e => e == r
  | _ => false

/-! ## Well-formedness, forms and bytes -/

/-- R156, vector X7: an identifier that needs 13 bits is ill-formed in each 32-bit form, and well-formed in a 48-bit
form. -/
theorem test_ssrget_ill_formed : (Instr.ssrget 2 0x001F05#24).wellFormed cfg2 = false := by decide

theorem test_ssrset_ill_formed : (Instr.ssrset 0x001000#24 1).wellFormed cfg2 = false := by decide

theorem test_ssrswap_ill_formed : (Instr.ssrswap 2 0x001F05#24 1).wellFormed cfg2 = false := by decide

theorem test_hl_takes_every_id : (Instr.hlSsrget 2 0xFFFFFF#24).wellFormed cfg2 = true := by decide

/-- R160: a compact code of width 3 is below 8. -/
theorem test_code_ill_formed :
    (Instr.cSsrget 5 8).wellFormed cfg2 = false ∧ (Instr.cSsrget 5 7).wellFormed cfg2 = true := by decide

/-- R26: a machine of 32 general registers has no `x32`. -/
theorem test_gpr_ill_formed :
    (Instr.hlSsrget 32 0x000000#24).wellFormed cfg2 = false ∧ (Instr.hlSsrset 0x000000#24 32).wellFormed cfg2 = false ∧
    (Instr.ssrswap 31 0x000000#24 32).wellFormed cfg2 = false ∧
    (Instr.hlSsrget 31 0x000000#24).wellFormed cfg2 = true := by decide

/-- R156, R161: an ill-formed term is rejected before execution. -/
theorem test_step_rejects_ill_formed :
    refusedIs (step (at1 (st cfg2 0 [] []) (.ssrget 2 0x001F05#24)).state) .illFormedTerm = true := by decide

/-- Vector 2.3: the field `0xF05` names `0x000F05`, never `0x001F05` or `0xFFFF05`; the fields of the other forms. -/
theorem test_decode_ssrget : decodeForm (.ssrget 5 0xF05#12) = .ssrget 5 0x000F05#24 := by decide

theorem test_decode_ssrset : decodeForm (.ssrset 0x001#12 6) = .ssrset 0x000001#24 6 := by decide

theorem test_decode_ssrswap : decodeForm (.ssrswap 7 0xFFF#12 8) = .ssrswap 7 0x000FFF#24 8 := by decide

theorem test_decode_hlSsrget : decodeForm (.hlSsrget 8 0x001F80#24) = .hlSsrget 8 0x001F80#24 := by decide

theorem test_decode_hlSsrset : decodeForm (.hlSsrset 0x001F01#24 9) = .hlSsrset 0x001F01#24 9 := by decide

theorem test_decode_cSsrget : decodeForm (.cSsrget 5 1#15) = .cSsrget 5 1 := by decide

theorem test_encode_ssrget : encode cfg2 (.ssrget 5 0x000F05#24) = some (.ssrget 5 0xF05#12) ∧
    encode cfg2 (.ssrget 5 0x001F05#24) = none := by decide

/-- R153, R161: bytes at `pc` are refused by name. -/
theorem test_bytes_refused :
    refusedIs (step ((st cfg2 0 [] []).state.withFetchWord 32 0x12345678)) .unknownEncoding = true := by decide

/-- The byte order of `tableBytes`: bit 0 is in the first byte of a little-endian machine. -/
theorem test_tableBytes :
    tableBytes .little 32 0x44332211 = [0x11#8, 0x22#8, 0x33#8, 0x44#8, 0x00#8, 0x00#8] ∧
    tableBytes .big 32 0x44332211 = [0x22#8, 0x11#8, 0x44#8, 0x33#8, 0x00#8, 0x00#8] := by decide

/-! ## Identifiers (vectors 2.1, 2.2) and the register list -/

theorem test_mgr : mgr 0#4 0x0A#8 = 0x000F0A#24 ∧ mgr 1#4 0x21#8 = 0x001F21#24 ∧ mgr 15#4 0xB7#8 = 0x00FFB7#24 ∧
    isManager 0x000C00#24 = false ∧ isManager 0x010F00#24 = false := by decide

theorem test_defined :
    (findRow 2 0x000055#24).isSome = true ∧ (findRow 2 0x000056#24).isSome = false ∧
    (findRow 2 0x000F04#24).isSome = false ∧ (findRow 2 0x000F10#24).isSome = false ∧
    (findRow 2 0x001F10#24).isSome = true ∧ (findRow 2 0x000FB8#24).isSome = false ∧
    (findRow 2 0x001020#24).isSome = false ∧ (findRow 2 0x002F00#24).isSome = false ∧
    (findRow 3 0x002F00#24).isSome = true ∧ (findRow 2 0x010000#24).isSome = false := by decide

/-- The counts under 10_state.md section 7, and R33's 16, 48 and 7. -/
theorem test_table_counts :
    ssrTable.length = 71 ∧ ssrTable.countP (fun r => r.access == .rw) = 62 ∧
    ssrTable.countP (fun r => r.access == .ro) = 8 ∧ ssrTable.countP (fun r => r.access == .wo) = 1 ∧
    ssrTable.countP (fun r => r.cls == .t) = 3 ∧ ssrTable.countP (fun r => r.cls == .s) = 4 ∧
    ssrTable.countP (fun r => r.cls == .l) = 27 ∧ ssrTable.countP (fun r => r.cls == .x) = 32 ∧
    ssrTable.countP (fun r => match r.place with | .base _ => true | _ => false) = 16 ∧
    ssrTable.countP (fun r => match r.place with | .eachAcr _ => true | _ => false) = 48 ∧
    ssrTable.countP (fun r => match r.place with | .acr1Only _ => true | _ => false) = 7 := by decide

/-- No two rows take in one identifier. -/
theorem test_rows_apart : ssrTable.Pairwise (fun a b => a.place ≠ b.place) := by decide

/-! ## The six instructions (vectors of section 3) -/

/-- G1, G2, G5: a base register from ACR2, a constant, family 0 from ACR1. -/
theorem test_ssrget :
    nextIs (exec (.ssrget 5 0x000000#24) (st cfg2 2 [] [(0, 0x00007FFFF7A01000#64)]).state)
      (fun t => x t 5 == 0x00007FFFF7A01000 && pcOf t == 0x1004) = true ∧
    nextIs (exec (.ssrget 5 0x000022#24) (st cfg2 0 [] []).state) (fun t => x t 5 == 0x22) = true ∧
    nextIs (exec (.ssrget 5 0x000F05#24) (st cfg2 1 [] [(0x000F05, 0x55#64)]).state)
      (fun t => x t 5 == 0x55) = true := by decide

/-- G6, G8, G9, G10. -/
theorem test_ssrget_stops :
    faultIs (exec (.ssrget 5 0x000F05#24) (st cfg3 2 [] []).state) (.ssrPrivilege 0x000F05#24 2) = true ∧
    faultIs (exec (.ssrget 5 0x000F0A#24) (st cfg2 0 [] []).state) (.ssrReadOfWO 0x000F0A#24) = true ∧
    faultIs (exec (.ssrget 5 0x000F04#24) (st cfg2 0 [] []).state) (.ssrUndefined 0x000F04#24) = true ∧
    faultIs (exec (.ssrget 5 0x000F04#24) (st cfg3 2 [] []).state) (.ssrUndefined 0x000F04#24) = true := by decide

/-- W1, W2, W7, W9: a store of every bit, a latent register, an ignored write. -/
theorem test_ssrset :
    nextIs (exec (.ssrset 0x000001#24 6) (st cfg2 2 [(6, 0x10000000#64)] []).state)
      (fun t => ssrOf t 0x000001#24 == 0x10000000 && pcOf t == 0x1004) = true ∧
    nextIs (exec (.ssrset 0x000000#24 6) (st cfg2 0 [(6, 0xFFFFFFFFFFFFFFFF#64)] []).state)
      (fun t => ssrOf t 0x000000#24 == 0xFFFFFFFFFFFFFFFF) = true ∧
    nextIs (exec (.ssrset 0x000F01#24 6) (st cfg2 0 [(6, 0x80000000#64)] []).state)
      (fun t => ssrOf t 0x000F01#24 == 0x80000000) = true ∧
    nextIs (exec (.ssrset 0x000F05#24 6) (st cfg3Ignore 2 [(6, 5#64)] []).state)
      (fun t => t.body.ssr.isEmpty && pcOf t == 0x1004) = true := by decide

/-- W3, W5, W6, W8, W11. -/
theorem test_ssrset_stops :
    faultIs (exec (.ssrset 0x000010#24 6) (st cfg2 0 [(6, 1#64)] []).state) (.ssrWriteOfRO 0x000010#24) = true ∧
    refusedIs (exec (.ssrset 0x000020#24 6) (st cfg2 0 [(6, 0#64)] []).state) (.liveControlWrite 0x000020#24) = true ∧
    refusedIs (exec (.ssrset 0x000F0A#24 6) (st cfg2 0 [(6, 3#64)] []).state) (.liveControlWrite 0x000F0A#24) = true ∧
    faultIs (exec (.ssrset 0x000F05#24 6) (st cfg3 2 [(6, 5#64)] []).state) (.ssrPrivilege 0x000F05#24 2) = true ∧
    faultIs (exec (.ssrset 0x000F80#24 6) (st cfg2 0 [(6, 1#64)] []).state) (.ssrWriteOfRO 0x000F80#24) = true := by
  decide

/-- X1, X2, X6: two registers, one register as both operands, a latent register. -/
theorem test_ssrswap :
    nextIs (exec (.ssrswap 2 0x000000#24 1) (st cfg2 0 [(1, 0xB#64)] [(0, 0xA#64)]).state)
      (fun t => x t 2 == 0xA && ssrOf t 0x000000#24 == 0xB && x t 1 == 0xB &&
        pcOf t == 0x1004) = true ∧
    nextIs (exec (.ssrswap 7 0x000F05#24 7) (st cfg2 1 [(7, 0xBBBB#64)] [(0x000F05, 0xAAAA#64)]).state)
      (fun t => x t 7 == 0xAAAA && ssrOf t 0x000F05#24 == 0xBBBB) = true ∧
    nextIs (exec (.ssrswap 2 0x000053#24 1) (st cfg2 0 [(1, 9#64)] []).state)
      (fun t => ssrOf t 0x000053#24 == 9 && t.body.draws == 1) = true := by decide

/-- X3, X4, X5. -/
theorem test_ssrswap_stops :
    faultIs (exec (.ssrswap 2 0x000010#24 1) (st cfg2 0 [(1, 1#64)] []).state) (.ssrWriteOfRO 0x000010#24) = true ∧
    faultIs (exec (.ssrswap 2 0x000F0A#24 1) (st cfg2 0 [(1, 1#64)] []).state) (.ssrReadOfWO 0x000F0A#24) = true ∧
    refusedIs (exec (.ssrswap 2 0x000025#24 1) (st cfg2 0 [(1, 1#64)] []).state) (.liveControlWrite 0x000025#24) = true := by
  decide

/-- H1, H2, H3, H4. -/
theorem test_hlSsrget :
    nextIs (exec (.hlSsrget 8 0x001F80#24) (st cfg2 0 [] []).state)
      (fun t => x t 8 == 0x81 && pcOf t == 0x1006) = true ∧
    nextIs (exec (.hlSsrget 8 0x001F06#24) (st cfg2 1 [] [(0x001F05, 0x11#64), (0x001F06, 0x77#64)]).state)
      (fun t => x t 8 == 0x77) = true ∧
    nextIs (exec (.hlSsrget 8 0x001F05#24) (st cfg2 1 [] [(0x001F05, 0x11#64), (0x001F06, 0x77#64)]).state)
      (fun t => x t 8 == 0x11) = true ∧
    nextIs (exec (.hlSsrget 8 0x000000#24) (st cfg2 0 [] [(0, 0x42#64)]).state)
      (fun t => x t 8 == 0x42 && pcOf t == 0x1006) = true := by decide

/-- H5, H6, H8, H9. -/
theorem test_hlSsrget_stops :
    faultIs (exec (.hlSsrget 8 0x010F00#24) (st cfg2 0 [] []).state) (.ssrUndefined 0x010F00#24) = true ∧
    faultIs (exec (.hlSsrget 8 0x002F00#24) (st cfg2 0 [] []).state) (.ssrUndefined 0x002F00#24) = true ∧
    faultIs (exec (.hlSsrget 8 0x000F10#24) (st cfg2 0 [] []).state) (.ssrUndefined 0x000F10#24) = true ∧
    faultIs (exec (.hlSsrget 8 0x003F00#24) (st { cfg2 with nacr := 4 } 3 [] []).state)
      (.ssrPrivilege 0x003F00#24 3) = true := by decide

/-- I1, I2, I7. -/
theorem test_hlSsrset :
    nextIs (exec (.hlSsrset 0x001F01#24 9) (st cfg2 1 [(9, 0x80000000#64)] []).state)
      (fun t => ssrOf t 0x001F01#24 == 0x80000000 && pcOf t == 0x1006) = true ∧
    nextIs (exec (.hlSsrset 0x001F05#24 9) (st cfg2 0 [(9, 0x33#64)] []).state)
      (fun t => ssrOf t 0x001F05#24 == 0x33) = true ∧
    nextIs (exec (.hlSsrset 0x001F43#24 9) (st cfg2 1 [(9, 1#64)] []).state)
      (fun t => ssrOf t 0x001F43#24 == 1) = true := by decide

/-- I3, I4, I5, I6. -/
theorem test_hlSsrset_stops :
    refusedIs (exec (.hlSsrset 0x001F10#24 9) (st cfg2 1 [(9, 0x4000#64)] []).state) (.liveControlWrite 0x001F10#24) = true ∧
    refusedIs (exec (.hlSsrset 0x001F21#24 9) (st cfg2 1 [(9, 100#64)] []).state) (.liveControlWrite 0x001F21#24) = true ∧
    faultIs (exec (.hlSsrset 0x001F20#24 9) (st cfg2 1 [(9, 1#64)] []).state) (.ssrWriteOfRO 0x001F20#24) = true ∧
    refusedIs (exec (.hlSsrset 0x001F90#24 9) (st cfg2 1 [(9, 1#64)] []).state) (.liveControlWrite 0x001F90#24) = true := by
  decide

/-- C1: the illustrative table gives code 1 to `GP`. -/
theorem test_cSsrget :
    nextIs (exec (.cSsrget 5 1) (st cfg2 0 [] [(1, 0x10000000#64)]).state)
      (fun t => x t 5 == 0x10000000 && pcOf t == 0x1002) = true := by decide

/-- C2, C3. -/
theorem test_cSsrget_refused :
    refusedIs (exec (.cSsrget 5 7) (st cfg2 0 [] []).state) (.cRemapMissing 7) = true ∧
    refusedIs (exec (.cSsrget 5 0) (st { cfg2 with cSsridRemap := [] } 0 [] []).state) (.cRemapMissing 0) = true := by
  decide

/-- G11: a latent register in `STABLE_EXTRA` reads back what was stored. -/
theorem test_stable_extra :
    nextIs (exec (.ssrget 5 0x000050#24) (st { cfg2 with stableExtra := [0x000050#24] } 0 [] [(0x50, 7#64)]).state)
      (fun t => x t 5 == 7) = true := by decide

/-- R177's row on an unknown policy, at a width of 48 bits: a barred access is `SsrPrivilege`. -/
theorem test_unknown_policy :
    faultIs (exec (.ssrget 5 0x000F05#24) (st cfg48 2 [] []).state) (.ssrPrivilege 0x000F05#24 2) = true ∧
    faultIs (exec (.hlSsrset 0x001F05#24 6) (st cfg48 2 [] []).state) (.ssrPrivilege 0x001F05#24 2) = true := by
  decide

/-- R27 at a width of 48 bits: `pc` wraps around modulo `2^48`. -/
theorem test_pc_wraps :
    nextIs (exec (.hlSsrget 5 0x000000#24) { st cfg48 0 [] [(0, 9#48)] with pc := 0xFFFFFFFFFFFC#48 }.state)
      (fun t => x t 5 == 9 && pcOf t == 2) = true := by decide

/-- Section 3.7: the recommended packing. -/
theorem test_pack :
    packRecommended 0x111122223333AAAA#64 0x000000000000BBBB#64 0xFFFFFFFFFFFFCCCC#64 = 0x0000CCCCBBBBAAAA#64 ∧
    packRecommended 0#64 0#64 0x10000#64 = 0#64 ∧ packRecommended 0xFFFF#64 0#64 0#64 = 0xFFFF#64 := by decide

/-- The same vector as a machine's `EBARG_PACK`, and another machine's: item 0 highest, or any word for one vector. -/
theorem test_pack_parameter :
    (cfg2.ebargPack 0xAAAA#16 0xBBBB#16 0xCCCC#16).toNat = 0x0000CCCCBBBBAAAA ∧
    (EbargPacking.fields 32 16 0 : EbargPacking 48).pack 0xAAAA#16 0xBBBB#16 0xCCCC#16 = 0xAAAABBBBCCCC#48 ∧
    (EbargPacking.table [(0xCCCCBBBBAAAA#48, 7#64)] 9#64).pack 0xAAAA#16 0xBBBB#16 0xCCCC#16 = 7#64 ∧
    (EbargPacking.table [(0xCCCCBBBBAAAA#48, 7#64)] 9#64).pack 0xCCCC#16 0xBBBB#16 0xAAAA#16 = 9#64 := by decide

/-- `ACR_OF_CSTATE` as a bit field and as a table, with a field value that is no ACR number. -/
theorem test_acrOfCstate :
    cfg2.acrOfCstate 0xFFFFFFFFFFFFF0FF#64 = 0 ∧ cfg2.acrOfCstate 0x100#64 = 1 ∧ cfg2.acrOfCstate 0x200#64 = 1 ∧
    (CstateLayout.table [(5#64, 1)] 0).acrOf 2 5#64 = 1 ∧ (CstateLayout.table [(5#64, 1)] 0).acrOf 2 6#64 = 0 := by
  decide

/-- R8: a layout that gives a number not below `NACR` is ill-formed. -/
theorem test_layout_ill_formed :
    { cfg2 with cstateLayout := .field 8 4 2 }.wf = false ∧
    { cfg2 with cstateLayout := .table [(5#64, 2)] 0 }.wf = false ∧
    { cfg2 with cstateLayout := .table [(5#64, 1)] 0 }.wf = true := by decide

/-- One step runs the term at `pc`, and the run of a one-term program then ends (R227). -/
theorem test_step :
    nextIs (step (at1 (st cfg2 0 [] [(0, 0xA#64)]) (.ssrget 5 0x000000#24)).state)
      (fun t => x t 5 == 0xA && pcOf t == t.body.program.endPc.toNat && faultIs (step t) .endOfRun) = true := by
  decide

end Sys2Proof.Tests
end

