-- ==== Sys2Proof/Tests/Witnesses.lean ====
section
/-! SUPPORT. For every statement that has hypotheses, a concrete state and operands that meet all of them together,
one for each clause that has hypotheses of its own. -/

namespace Sys2Proof.Tests

open Sys2Proof Sys2Proof.Machine Sys2Proof.Claims

def rowTP : SsrRow := ⟨.base 0x000000#24, "TP", .rw, .s⟩
def rowTIME : SsrRow := ⟨.base 0x000010#24, "TIME", .ro, .t⟩
def rowCSTATE : SsrRow := ⟨.base 0x000020#24, "CSTATE", .rw, .x⟩
def rowECSTATE : SsrRow := ⟨.eachAcr 0x00#8, "ECSTATE_ACRn", .rw, .l⟩
def rowETEMP : SsrRow := ⟨.eachAcr 0x05#8, "ETEMP_ACRn", .rw, .s⟩
def rowEOIEI : SsrRow := ⟨.eachAcr 0x0A#8, "EOIEI_ACRn", .wo, .x⟩
def rowDWVR3 : SsrRow := ⟨.eachAcr 0xB7#8, "DWVR3_ACRn", .rw, .x⟩
def rowTIMER : SsrRow := ⟨.eachAcr 0x20#8, "TIMER_TIME_ACRn", .ro, .t⟩

theorem row_TP : findRow 2 0x000000#24 = some rowTP := by decide
theorem row_TIME : findRow 2 0x000010#24 = some rowTIME := by decide
theorem row_CSTATE : findRow 2 0x000020#24 = some rowCSTATE := by decide
theorem row_ECSTATE0 : findRow 2 0x000F00#24 = some rowECSTATE := by decide
theorem row_ETEMP0 : findRow 2 0x000F05#24 = some rowETEMP := by decide
theorem row_ETEMP0' : findRow 3 0x000F05#24 = some rowETEMP := by decide
theorem row_ETEMP1 : findRow 2 0x001F05#24 = some rowETEMP := by decide
theorem row_EOIEI0 : findRow 2 0x000F0A#24 = some rowEOIEI := by decide
theorem row_DWVR31 : findRow 2 0x001FB7#24 = some rowDWVR3 := by decide
theorem row_DWVR30 : findRow 2 0x000FB7#24 = some rowDWVR3 := by decide
theorem row_TIMER0 : findRow 2 0x000F20#24 = some rowTIMER := by decide

/-- ACR1 of a machine of two, with something in `x6`, `TP` and `ETEMP_ACR0`. -/
def s1 : StateOf cfg2 := st cfg2 1 [(6, 5#64)] [(0, 0xA#64), (0x000F05, 0xB#64)]

/-- ACR2 of a machine of three under the policy `raise`. -/
def s2 : StateOf cfg3 := st cfg3 2 [(6, 5#64)] [(0, 0xA#64), (0x000F05, 0xB#64)]

/-- ACR2 of a machine of three under the policy `ignore`. -/
def s2i : StateOf cfg3Ignore := st cfg3Ignore 2 [(6, 5#64)] [(0, 0xA#64), (0x000F05, 0xB#64)]

/-- ACR2 of a machine of three whose platform profile is not known. -/
def s48 : StateOf cfg48 := st cfg48 2 [] []

theorem cfg2_holdsEveryAcr : cfg2.HoldsEveryAcr := fun a ha =>
  ⟨BitVec.ofNat 64 (a * 256), (by decide : ∀ a, a < 2 → cfg2.acrOfCstate (BitVec.ofNat 64 (a * 256)) = a) a ha⟩

theorem s1_inv : s1.state.Inv :=
  ⟨by decide, cfg2_holdsEveryAcr, by decide, by decide, by decide, by decide, by decide, by decide⟩

theorem witness_DecodeFormOfEncodedTerm : cfg2.wf = true ∧ (Instr.cSsrget 5 7).wellFormed cfg2 = true ∧
    (Instr.ssrget 5 0x000FFF#24).wellFormed cfg2 = true ∧ (Instr.hlSsrset 0xFFFFFF#24 5).wellFormed cfg2 = true := by
  decide

theorem witness_EncodeOfDecodedForm : cfg2.wf = true ∧ (decodeForm (.ssrget 5 0xFFF#12)).wellFormed cfg2 = true ∧
    (decodeForm (.cSsrget 5 7#15)).wellFormed cfg2 = true := by decide

theorem witness_ByteDecoderRefusesEveryWord :
    termAt ((st cfg2 0 [] []).placeBytes [0x01#8]).program 0x1000#64 = none ∧
    (((st cfg2 0 [] []).placeBytes [0x01#8]).mem.read 0x1000#64).isSome = true := by decide

theorem witness_FormChoice : fits12 0x000FFF#24 = true ∧ fits12 0x001000#24 = false ∧
    termAt (at1 s1 (.ssrget 2 0x001F05#24)).program 0x1000#64 = some (.ssrget 2 0x001F05#24) ∧
    (Instr.ssrget 2 0x001F05#24).wellFormed cfg2 = false ∧ cfg2.hasGpr 31 = true ∧ cfg2.hasGpr 32 = false ∧
    (Instr.ssrget 32 0x000000#24).destOf = some 32 := by decide

/-- An undefined identifier that fits in 12 bits, one that does not, and a table that names an undefined one. -/
theorem witness_UndefinedIdentifierFaults : undefinedR88 2 0x000F04#24 = true ∧ fits12 0x000F04#24 = true ∧
    undefinedR88 2 0x002F00#24 = true ∧ undefinedR88 2 0x001F10#24 = false ∧ undefinedR88 2 0x000F10#24 = true ∧
    remapOf { cfg2 with cSsridRemap := [(0, 0x000F04#24)] } 0 = some 0x000F04#24 := by decide

theorem witness_TranslationRegistersOnlyInFamilyOne : 2 ≤ cfg2.nacr ∧
    0x10 ≤ (0x10#8).toNat ∧ (0x16#8).toNat ≤ 0x16 ∧ (0#4 : BitVec 4) ≠ 1#4 := by decide

/-- For `ScratchRegisters`, `ConstantRegisters`, `CounterRegisters`, `LoopRegistersAreLatent`,
`TrapRegistersAreLatent`, `EbargWordsAreLatent`, `InterruptControlRefusesWrites`, `TranslationControlRefusesWrites` and
`DebugControlRefusesWrites`: the state may reach a base register and registers of both families, and the ranges of
register numbers have members. -/
theorem witness_register_groups : (∀ id, MayReach s1 id) ∧ (familyOf (mgr 1#4 0xB7#8)).toNat < cfg2.nacr ∧
    (familyOf 0x001F16#24).toNat < cfg2.nacr ∧ 0x40 ≤ (0x50#8).toNat ∧ (0x50#8).toNat ≤ 0x50 ∧
    0x50 < (0x51#8).toNat ∧ (0x90 ≤ (0x97#8).toNat ∧ (0x97#8).toNat ≤ 0x97) ∧
    (0x050#24 : SsrId) ∉ cfg2.stableExtra := by
  refine ⟨fun _ _ => .inr rfl, ?_⟩
  decide

theorem witness_EndOfInterruptRegister : findRow 2 0x000F0A#24 = some rowEOIEI ∧ (1#4).toNat < cfg2.nacr ∧
    (0#4).toNat < cfg2.nacr ∧ s1.acr = 1 := ⟨row_EOIEI0, by decide, by decide, rfl⟩

theorem witness_ActiveAcr : s1.state.Inv ∧ ∃ t, exec (.ssrget 5 0x000020#24) s1.state = .next t := ⟨s1_inv, _, rfl⟩

theorem witness_PrivilegeRule :
    (findRow cfg2.nacr 0x000F05#24 = some rowETEMP ∧ MayReach s1 0x000F05#24 ∧ rowETEMP.access ≠ .wo ∧
      rowETEMP.access ≠ .ro ∧ rowETEMP.cls ≠ .x) ∧
    (findRow cfg3.nacr 0x000F05#24 = some rowETEMP ∧ Barred s2 0x000F05#24 ∧ cfg3.otherAcrPolicy = some .raise) ∧
    (findRow cfg48.nacr 0x000F05#24 = some rowETEMP ∧ Barred s48 0x000F05#24 ∧ cfg48.otherAcrPolicy = none) ∧
    (findRow cfg3Ignore.nacr 0x000F05#24 = some rowETEMP ∧ Barred s2i 0x000F05#24 ∧
      cfg3Ignore.otherAcrPolicy = some .ignore) ∧
    (∃ f, ssrRead 0x000F0A#24 s1 = .fault f) ∧ (∃ f, ssrWrite 0x000010#24 0 s1 = .fault f) :=
  ⟨⟨row_ETEMP0, by decide, by decide, by decide, by decide⟩, ⟨row_ETEMP0', by decide, rfl⟩,
    ⟨row_ETEMP0', by decide, rfl⟩, ⟨row_ETEMP0', by decide, rfl⟩, ⟨_, rfl⟩, ⟨_, rfl⟩⟩

/-- Steps from ACR2 that complete: a base register written, and under `ignore` a manager register. -/
theorem witness_OtherAcrsCannotChangeManagerRegisters : 2 ≤ s2.acr ∧
    (∃ t, step (at1 s2 (.ssrset 0x000000#24 6)).state = .next t) ∧
    (∃ t, step (at1 s2i (.ssrset 0x000F05#24 6)).state = .next t) ∧ isManager 0x000F05#24 = true :=
  ⟨by decide, ⟨_, rfl⟩, ⟨_, rfl⟩, by decide⟩

/-- Two states that differ in a manager register and nowhere else. -/
theorem witness_OtherAcrsLearnNothingOfManagerRegisters : 2 ≤ s2.acr ∧
    AgreeOffManager s2 (s2.storeSsr 0x000F05#24 7#64) ∧ s2 ≠ s2.storeSsr 0x000F05#24 7#64 := by
  refine ⟨by decide, ⟨rfl, fun id h => ?_⟩, by decide⟩
  refine storedSsr_storeSsr_other _ _ ?_
  rintro rfl
  exact absurd h (by decide)

theorem witness_SsrgetCompletes : fits12 0x000F05#24 = true ∧ findRow cfg2.nacr 0x000F05#24 = some rowETEMP ∧
    MayReach s1 0x000F05#24 ∧ rowETEMP.access ≠ .wo :=
  ⟨by decide, row_ETEMP0, by decide, by decide⟩

theorem witness_HlSsrgetCompletes : findRow cfg2.nacr 0x001F05#24 = some rowETEMP ∧ MayReach s1 0x001F05#24 ∧
    rowETEMP.access ≠ .wo := ⟨row_ETEMP1, by decide, by decide⟩

theorem witness_CSsrgetCompletes : remapOf cfg2 0 = some 0x000000#24 ∧
    findRow cfg2.nacr 0x000000#24 = some rowTP ∧ MayReach s1 0x000000#24 ∧ rowTP.access ≠ .wo :=
  ⟨by decide, row_TP, by decide, by decide⟩

theorem witness_SsrsetCompletes : fits12 0x000F00#24 = true ∧ findRow cfg2.nacr 0x000F00#24 = some rowECSTATE ∧
    MayReach s1 0x000F00#24 ∧ (rowECSTATE.cls = .s ∨ rowECSTATE.cls = .l) :=
  ⟨by decide, row_ECSTATE0, by decide, by decide⟩

theorem witness_HlSsrsetCompletes : findRow cfg2.nacr 0x001F05#24 = some rowETEMP ∧ MayReach s1 0x001F05#24 ∧
    (rowETEMP.cls = .s ∨ rowETEMP.cls = .l) := ⟨row_ETEMP1, by decide, by decide⟩

theorem witness_SsrswapCompletes : fits12 0x000F05#24 = true ∧ findRow cfg2.nacr 0x000F05#24 = some rowETEMP ∧
    MayReach s1 0x000F05#24 ∧ (rowETEMP.cls = .s ∨ rowETEMP.cls = .l) :=
  ⟨by decide, row_ETEMP0, by decide, by decide⟩

/-- A barred register that the table also names, and a write-only register that the table also names. -/
theorem witness_ReadInstructionsStop :
    (findRow cfg3.nacr 0x000F05#24 = some rowETEMP ∧ Barred s2 0x000F05#24 ∧ cfg3.otherAcrPolicy ≠ some .ignore ∧
      fits12 0x000F05#24 = true) ∧
    (findRow cfg2.nacr 0x000F0A#24 = some rowEOIEI ∧ MayReach s1 0x000F0A#24 ∧ rowEOIEI.access = .wo ∧
      fits12 0x000F0A#24 = true) ∧
    remapOf { cfg2 with cSsridRemap := [(7, 0x000F0A#24)] } 7 = some 0x000F0A#24 :=
  ⟨⟨row_ETEMP0', by decide, by decide, by decide⟩, ⟨row_EOIEI0, by decide, rfl, by decide⟩, by decide⟩

theorem witness_WriteInstructionsStop :
    (findRow cfg3.nacr 0x000F05#24 = some rowETEMP ∧ Barred s2 0x000F05#24 ∧ cfg3.otherAcrPolicy ≠ some .ignore ∧
      fits12 0x000F05#24 = true) ∧
    (findRow cfg2.nacr 0x000F20#24 = some rowTIMER ∧ MayReach s1 0x000F20#24 ∧ rowTIMER.access = .ro ∧
      fits12 0x000F20#24 = true) ∧
    (findRow cfg2.nacr 0x000FB7#24 = some rowDWVR3 ∧ MayReach s1 0x000FB7#24 ∧ rowDWVR3.cls = .x ∧
      fits12 0x000FB7#24 = true) :=
  ⟨⟨row_ETEMP0', by decide, by decide, by decide⟩, ⟨row_TIMER0, by decide, rfl, by decide⟩,
    ⟨row_DWVR30, by decide, rfl, by decide⟩⟩

theorem witness_SwapStops :
    (fits12 0x000F05#24 = true ∧ findRow cfg3.nacr 0x000F05#24 = some rowETEMP ∧ Barred s2 0x000F05#24 ∧
      cfg3.otherAcrPolicy ≠ some .ignore) ∧
    (fits12 0x000F0A#24 = true ∧ findRow cfg2.nacr 0x000F0A#24 = some rowEOIEI ∧ MayReach s1 0x000F0A#24 ∧
      rowEOIEI.access = .wo) ∧
    (fits12 0x000010#24 = true ∧ findRow cfg2.nacr 0x000010#24 = some rowTIME ∧ MayReach s1 0x000010#24 ∧
      rowTIME.access = .ro) ∧
    (fits12 0x000020#24 = true ∧ findRow cfg2.nacr 0x000020#24 = some rowCSTATE ∧ MayReach s1 0x000020#24 ∧
      rowCSTATE.access = .rw ∧ rowCSTATE.cls = .x) :=
  ⟨⟨by decide, row_ETEMP0', by decide, by decide⟩, ⟨by decide, row_EOIEI0, by decide, rfl⟩,
    ⟨by decide, row_TIME, by decide, rfl⟩, ⟨by decide, row_CSTATE, by decide, rfl, rfl⟩⟩

theorem witness_IgnoredAccessesComplete : findRow cfg3Ignore.nacr 0x000F05#24 = some rowETEMP ∧
    Barred s2i 0x000F05#24 ∧ cfg3Ignore.otherAcrPolicy = some .ignore ∧ fits12 0x000F05#24 = true ∧
    remapOf { cfg3Ignore with cSsridRemap := [(2, 0x000F05#24)] } 2 = some 0x000F05#24 :=
  ⟨row_ETEMP0', by decide, rfl, by decide, by decide⟩

theorem witness_CompactReadFollowsTheTable : remapOf cfg2 7 = none ∧ remapOf cfg2 1 = some 0x000001#24 := by decide

/-- Every one of the six completes somewhere. -/
theorem witness_NothingElseIsWritten :
    (∃ t, exec (.ssrget 5 0x000000#24) s1.state = .next t) ∧ (∃ t, exec (.ssrset 0x000000#24 6) s1.state = .next t) ∧
    (∃ t, exec (.ssrswap 5 0x000000#24 6) s1.state = .next t) ∧ (∃ t, exec (.hlSsrget 5 0x001F05#24) s1.state = .next t) ∧
    (∃ t, exec (.hlSsrset 0x001F05#24 6) s1.state = .next t) ∧ (∃ t, exec (.cSsrget 5 0) s1.state = .next t) ∧
    (Instr.ssrget 5 0x000000#24).wellFormed cfg2 = true :=
  ⟨⟨_, rfl⟩, ⟨_, rfl⟩, ⟨_, rfl⟩, ⟨_, rfl⟩, ⟨_, rfl⟩, ⟨_, rfl⟩, by decide⟩

/-- Every writing form and every reading form, of a register of family 0 and the long forms of family 1. -/
theorem witness_ScratchWriteSeenByRead :
    (findRow cfg2.nacr 0x001F05#24 = some rowETEMP ∧ rowETEMP.cls = .s ∧ MayReach s1 0x001F05#24 ∧
      WritesTo 6 0x001F05#24 (.hlSsrset 0x001F05#24 6) ∧ ReadsFrom cfg2 5 0x001F05#24 (.hlSsrget 5 0x001F05#24)) ∧
    (findRow cfg2.nacr 0x000000#24 = some rowTP ∧ rowTP.cls = .s ∧ MayReach s1 0x000000#24 ∧
      WritesTo 6 0x000000#24 (.ssrset 0x000000#24 6) ∧ WritesTo 6 0x000000#24 (.ssrswap 7 0x000000#24 6) ∧
      ReadsFrom cfg2 5 0x000000#24 (.ssrget 5 0x000000#24) ∧
      ReadsFrom cfg2 5 0x000000#24 (.ssrswap 5 0x000000#24 7) ∧ ReadsFrom cfg2 5 0x000000#24 (.cSsrget 5 0)) :=
  ⟨⟨row_ETEMP1, rfl, by decide, .inl rfl, .inl rfl⟩,
    ⟨row_TP, rfl, by decide, .inr ⟨by decide, .inl rfl⟩, .inr ⟨by decide, .inr ⟨7, rfl⟩⟩,
      .inr (.inl ⟨by decide, .inl rfl⟩), .inr (.inl ⟨by decide, .inr ⟨7, rfl⟩⟩), .inr (.inr ⟨0, by decide, rfl⟩)⟩⟩

theorem witness_SwapTwiceRestores : fits12 0x000F05#24 = true ∧ findRow cfg2.nacr 0x000F05#24 = some rowETEMP ∧
    rowETEMP.cls = .s ∧ MayReach s1 0x000F05#24 := ⟨by decide, row_ETEMP0, rfl, by decide⟩

theorem witness_StepRunsTheTermAtPc :
    termAt (at1 s1 (.ssrget 5 0x000000#24)).program (at1 s1 (.ssrget 5 0x000000#24)).pc =
      some (.ssrget 5 0x000000#24) ∧ (Instr.ssrget 5 0x000000#24).wellFormed cfg2 = true := by decide

theorem witness_ProgramTermsStandConsecutively :
    sumLengths ([Instr.hlSsrset 0x001F05#24 5] ++ Instr.cSsrget 7 0 :: [Instr.ssrget 6 0x000021#24]) < 2 ^ cfg2.xlen := by
  decide

/-- The end of the empty program at `pc`, and a place that is not its end. -/
theorem witness_StepStopsWhereNothingStands :
    (termAt (s1.load 0x1000#64 []).program 0x1000#64 = none ∧ (s1.load 0x1000#64 []).mem.read 0x1000#64 = none ∧
      (s1.load 0x1000#64 []).pc = (s1.load 0x1000#64 []).program.endPc) ∧
    (termAt s1.program s1.pc = none ∧ s1.mem.read s1.pc = none ∧ s1.pc ≠ s1.program.endPc) := by decide

theorem witness_PlacedBytesAreFetched : [0x11#8, 0x22#8, 0x33#8].length < 2 ^ 64 := by decide

/-- For `StepKeepsAcrParametersProgramAndBytes`, `LiveControlNeverStored` and `StepKeepsInvariant`: a state that meets
the invariant and takes a step that stores, and a register outside classes S and L. -/
theorem witness_steps : (at1 s1 (.ssrset 0x000F05#24 6)).state.Inv ∧
    (∃ t, step (at1 s1 (.ssrset 0x000F05#24 6)).state = .next t) ∧ isStored 2 0x000020#24 = false :=
  ⟨⟨by decide, cfg2_holdsEveryAcr, by decide, by decide, by decide, by decide, by decide, by decide⟩, ⟨_, rfl⟩, by decide⟩

/-- A reset state of another machine than the free one, whose reset ACR reaches every `DBGID`. -/
theorem witness_ResetValues : (0xF#4 : BitVec 4).toNat < 16 ∧ MayReach (StateOf.reset cfg2) (mgr 1#4 0x80#8) := by decide

theorem witness_EverySsrIsXlenWide : 2 ^ 64 - 1 < 2 ^ cfg2.xlen ∧ 2 ^ 48 - 1 < 2 ^ cfg48.xlen := by decide

theorem witness_AdmittedWidthsAndFamilies : (48 ≤ 48 ∧ 2 ≤ 2 ∧ 2 ≤ 16) ∧ cfg2.wf = true ∧ cfg48.wf = true := by
  decide

/-- A function that is neither constant nor one bit field of the word. -/
theorem witness_EveryLayoutAndPackingHasAMachine : cfg2.wf = true ∧
    ∀ v : Word 64, (if v = 5#64 then 1 else (v.extractLsb' 3 1).toNat) < cfg2.nacr :=
  ⟨by decide, fun v => by split <;> [decide; exact (v.extractLsb' 3 1).isLt]⟩

theorem witness_CstateFieldHoldsTheActiveAcr : cfg2.cstateLayout = .field 8 4 1 ∧ 8 + 4 ≤ cfg2.xlen ∧
    cfg2.nacr ≤ 2 ^ 4 ∧ s1.acr < cfg2.nacr ∧ cfg3.nacr ≤ 2 ^ 4 := ⟨rfl, by decide, by decide, by decide, by decide⟩

theorem witness_RecommendedPackingOfEbargWords : cfg2.ebargPacking = .recommended ∧ 48 ≤ cfg2.xlen ∧
    cfg48.ebargPacking = .recommended ∧ 48 ≤ cfg48.xlen := ⟨rfl, by decide, rfl, by decide⟩

theorem witness_LongFormsCarryTheWholeIdentifier : 0x000FFF < (0x001000#24 : SsrId).toNat ∧ cfg2.hasGpr 31 = true := by
  decide

/-- Both ends of each range of register numbers of a trap bank. -/
theorem witness_TrapBanksAreSeparate : (1#4 : BitVec 4).toNat < cfg2.nacr ∧ trapBank (0x03#8).toNat = true ∧
    trapBank (0x04#8).toNat = false ∧ trapBank (0x05#8).toNat = true ∧ trapBank (0x07#8).toNat = true ∧
    trapBank (0x08#8).toNat = false ∧ trapBank (0x40#8).toNat = true ∧ trapBank (0x50#8).toNat = true ∧
    trapBank (0x51#8).toNat = false ∧ (0#4 : BitVec 4) ≠ 1#4 := by decide

end Sys2Proof.Tests
end

section

namespace Sys2Proof

open Machine

/-- A machine of a given width, whatever it is: `Config.least` with every word-valued parameter at that width (R5). -/
def Config.ofWidth (xlen : Nat) : Config :=
  { Config.least with
    xlen := xlen
    constLxlcid := 0
    constVendor := 0
    constVersion := 0
    constLcfr := 0
    constDbgid := Vector.replicate 16 0
    cstateLayout := .field 0 4 0
    resetPc := 0
    ebargPacking := .recommended }

@[simp] theorem Config.ofWidth_xlen (xlen : Nat) : (Config.ofWidth xlen).xlen = xlen := rfl

/-- A store drops no bit of a value that fits the width: nothing between the write and the stored cell masks it. -/
theorem Machine.toNat_storedSsr_storeSsr_ofNat {c : Config} (s : StateOf c) (id : SsrId) {v : Nat}
    (hv : v < 2 ^ c.xlen) : ((s.storeSsr id (BitVec.ofNat c.xlen v)).storedSsr id).toNat = v := by
  rw [storedSsr_storeSsr_same, BitVec.toNat_ofNat, Nat.mod_eq_of_lt hv]

/-- Settles O47: `Config.ofWidth` is a machine of each width, a read after a store gives the stored word, and a stored
word is of the machine's width by its type. -/
theorem everySsrIsXlenWide : Obligations.EverySsrIsXlenWide :=
  ⟨fun xlen => ⟨Config.ofWidth xlen, Config.ofWidth_xlen xlen⟩,
    fun _ s id _ hv => ⟨toNat_storedSsr_storeSsr_ofNat s id hv, (s.storedSsr id).isLt⟩⟩

end Sys2Proof
end

section

namespace Sys2Proof

open Machine

/-- An identifier fits the 12-bit field exactly when it is at most `0x000FFF` (R156). -/
theorem fits12_iff_toNat_le {id : SsrId} : fits12 id = true ↔ id.toNat ≤ 0x000FFF := by
  have hlt := id.isLt
  simp only [fits12, beq_iff_eq, ← BitVec.toNat_inj, BitVec.extractLsb'_toNat, Nat.shiftRight_eq_div_pow,
    BitVec.toNat_ofNat, Nat.zero_mod]
  omega

/-- The encoder has no answer exactly for a term that is not well-formed (R156, R160). -/
theorem encode_eq_none {c : Config} {i : Instr} : encode c i = none ↔ i.wellFormed c = false := by
  simp [encode]

/-- None of the three 32-bit forms encodes an identifier that does not fit in 12 bits, whatever its registers (R156). -/
theorem encode_shortForms_of_not_fits12 {c : Config} {id : SsrId} (h : fits12 id = false) (rd rs : Nat) :
    encode c (.ssrget rd id) = none ∧ encode c (.ssrset id rs) = none ∧ encode c (.ssrswap rd id rs) = none := by
  simp [encode_eq_none, Instr.wellFormed, h]

/-- Settles O6: `Form.lengthBits` gives each form the length R150 does. -/
theorem lengthsOfTheForms : Obligations.LengthsOfTheForms :=
  ⟨fun _ _ => rfl, fun _ _ => rfl, fun _ _ => rfl, fun _ _ _ => rfl, fun _ _ => rfl, fun _ _ => rfl⟩

/-- Settles O49: the 48-bit forms are well-formed at every identifier, the 32-bit forms only at one that fits, and
`mgr 1 xx` is `0x1F00 + xx`. -/
theorem longFormsCarryTheWholeIdentifier : Obligations.LongFormsCarryTheWholeIdentifier := by
  refine ⟨fun _ _ _ => ⟨rfl, rfl, rfl, rfl⟩, fun c rd rs id hid hrd hrs => ?_, fun xx => ?_⟩
  · have hfit : fits12 id = false := by
      rw [Bool.eq_false_iff, Ne, fits12_iff_toNat_le]
      omega
    exact ⟨encode_eq_some.2 ⟨hrd, rfl⟩, encode_eq_some.2 ⟨hrs, rfl⟩, encode_shortForms_of_not_fits12 hfit rd rs⟩
  · have hmgr : (mgr 1#4 xx).toNat = 0x1F00 + xx.toNat := mgr_toNat 1#4 xx
    omega

end Sys2Proof
end

section

namespace Sys2Proof

open Machine Claims

/-- `mgr` names each pair of a manager ACR and a register number by an identifier of its own (R22). -/
theorem Machine.mgr_inj {n m : BitVec 4} {xx yy : BitVec 8} : mgr n xx = mgr m yy ↔ n = m ∧ xx = yy := by
  refine ⟨fun h => ⟨?_, ?_⟩, fun ⟨hn, hx⟩ => by rw [hn, hx]⟩
  · simpa only [familyOf_mgr] using congrArg familyOf h
  · simpa only [numberOf_mgr] using congrArg numberOf h

/-- Whether a row, if its number is one of the trap bank, stands for every manager ACR and is read-write (R190). -/
def Machine.SsrRow.trapBankIsScoped (r : SsrRow) : Bool :=
  match r.place with
  | .base _ => true
  | .eachAcr y => !trapBank y.toNat || r.access == .rw
  | .acr1Only y => !trapBank y.toNat

theorem familyRows_trapBankIsScoped : familyRows.all SsrRow.trapBankIsScoped = true := by decide

/-- Each number of the trap bank has a row of the register list that stands for every manager ACR (R190). -/
theorem trapBank_has_row : ∀ k < 0x51, trapBank k = true →
    familyRows.any (fun r => r.place == .eachAcr (BitVec.ofNat 8 k)) = true := by decide

theorem exists_row_of_trapBank {xx : BitVec 8} (h : trapBank xx.toNat = true) :
    ∃ r ∈ familyRows, r.place = .eachAcr xx := by
  have hlt : xx.toNat < 0x51 := by
    simp only [trapBank, Bool.or_eq_true, Bool.and_eq_true, decide_eq_true_eq] at h
    omega
  simpa using trapBank_has_row xx.toNat hlt h

/-- A row that takes in a trap-bank number of some family is read-write and takes in that number of every family:
the rows of `ACR1` alone lie outside the trap bank. -/
theorem place_access_of_isAt_trapBank {r : SsrRow} {n : BitVec 4} {xx : BitVec 8} (hr : r ∈ familyRows)
    (hat : r.isAt n xx = true) (h : trapBank xx.toNat = true) : r.place = .eachAcr xx ∧ r.access = .rw := by
  have hs := List.all_eq_true.1 familyRows_trapBankIsScoped r hr
  unfold SsrRow.trapBankIsScoped at hs
  unfold SsrRow.isAt at hat
  cases hp : r.place with
  | base k => simp [hp] at hat
  | eachAcr y =>
    obtain rfl : xx = y := by simpa [hp] using hat
    exact ⟨rfl, by simpa [hp, h] using hs⟩
  | acr1Only y =>
    obtain ⟨-, rfl⟩ : n = 1#4 ∧ xx = y := by simpa [hp] using hat
    simp [hp, h] at hs

/-- Every family that exists has each register of the trap bank, read-write (R33, R190). -/
theorem findRow_trapBank {nacr : Nat} {n : BitVec 4} {xx : BitVec 8} (hn : n.toNat < nacr)
    (h : trapBank xx.toNat = true) :
    ∃ r, findRow nacr (mgr n xx) = some r ∧ r.place = .eachAcr xx ∧ r.access = .rw := by
  obtain ⟨q, hq, hplace⟩ := exists_row_of_trapBank h
  have hfound : (familyRows.find? (fun r => r.isAt n xx)).isSome = true :=
    List.find?_isSome.2 ⟨q, hq, by simp [SsrRow.isAt, hplace]⟩
  obtain ⟨r, hr⟩ := Option.isSome_iff_exists.1 hfound
  have hat : r.isAt n xx = true := List.find?_some (p := fun q : SsrRow => q.isAt n xx) hr
  exact ⟨r, by rw [findRow_mgr, if_neg (Nat.not_le.2 hn), hr],
    place_access_of_isAt_trapBank (List.mem_of_find?_eq_some hr) hat h⟩

/-- Settles O50: the lookup finds a trap-bank row for every family, and two manager identifiers that differ in either
part are different SSRs, so a store into one is not seen in the other. -/
theorem trapBanksAreSeparate : Obligations.TrapBanksAreSeparate := by
  refine ⟨fun _ _ _ hn h => findRow_trapBank hn h, fun _ s n m xx yy v hne => storedSsr_storeSsr_other s v ?_⟩
  intro heq
  obtain ⟨hn, hx⟩ := mgr_inj.1 heq
  exact hne.elim (· hn.symm) (· hx.symm)

end Sys2Proof
end

section

namespace Sys2Proof

open Machine Claims

/-- The constraints of R8, one by one; the two on the tables stay as they are written there. -/
theorem Config.wf_iff {c : Config} : c.wf = true ↔
    48 ≤ c.xlen ∧ 2 ≤ c.nacr ∧ c.nacr ≤ 16 ∧ c.cSsridWidth < 16 ∧ c.resetAcr < c.nacr ∧
    c.cstateLayout.wf c.nacr = true ∧
    c.cSsridRemap.all (fun e => decide (e.1 < 2 ^ c.cSsridWidth) && (findRow c.nacr e.2).isSome) = true ∧
    c.stableExtra.all (fun id => (findRow c.nacr id).any (fun r => r.cls == .l)) = true := by
  simp only [Config.wf, Bool.and_eq_true, decide_eq_true_eq, and_assoc]

/-- A code below `2^C_SSRID_WIDTH` fits the 15 bits of the compact form's field (R8, R154). -/
theorem Config.code_lt_of_wf {c : Config} (hc : c.wf = true) {code : Nat} (h : code < 2 ^ c.cSsridWidth) :
    code < 2 ^ 15 := by
  obtain ⟨-, -, -, hw, -⟩ := Config.wf_iff.1 hc
  exact h.trans_le (Nat.pow_le_pow_right (by decide) (by omega))

/-- Cutting a fitting identifier to 12 bits and extending it again gives it back (R155, R156). -/
theorem idOf12_setWidth_of_fits12 {id : SsrId} (h : fits12 id = true) : idOf12 (id.setWidth 12) = id :=
  named12_of_fits h

theorem decodeForm_formOf {c : Config} {i : Instr} (hc : c.wf = true) (hi : i.wellFormed c = true) :
    decodeForm (formOf i) = i := by
  cases i <;> simp only [Instr.wellFormed, Bool.and_eq_true, decide_eq_true_eq] at hi <;>
    simp only [formOf, decodeForm]
  case ssrget => rw [idOf12_setWidth_of_fits12 hi.1]
  case ssrset => rw [idOf12_setWidth_of_fits12 hi.1]
  case ssrswap => rw [idOf12_setWidth_of_fits12 hi.1.1]
  case cSsrget => rw [BitVec.toNat_ofNat, Nat.mod_eq_of_lt (Config.code_lt_of_wf hc hi.1)]

/-- Every field is as wide as what the term keeps of it, so cutting the term to the fields again loses nothing. -/
theorem formOf_decodeForm (f : Form) : formOf (decodeForm f) = f := by
  cases f <;> simp [decodeForm, formOf, idOf12, BitVec.setWidth_setWidth_of_le]

/-- Settles O1: the encoder answers the fields of a well-formed term, and a fitting identifier and a code below
`2^C_SSRID_WIDTH` lose no bit in theirs. -/
theorem decodeFormOfEncodedTerm : Obligations.DecodeFormOfEncodedTerm :=
  fun _ i hc hi => ⟨formOf i, encode_eq_some.2 ⟨hi, rfl⟩, decodeForm_formOf hc hi⟩

/-- Settles O2: `formOf` is a left inverse of `decodeForm`. -/
theorem encodeOfDecodedForm : Obligations.EncodeOfDecodedForm :=
  fun _ f _ hi => encode_eq_some.2 ⟨hi, formOf_decodeForm f⟩

/-- Settles O3: the fields are zero-extended or taken whole, here on written-out values. -/
theorem sampleFormsDecode : Obligations.SampleFormsDecode := by
  refine ⟨?_, ?_, ?_, ?_, ?_, ?_⟩ <;> rfl

end Sys2Proof
end

section

namespace Sys2Proof

open Machine Claims

/-- Both answers stop in the same way, or both complete with results that stand in the relation. -/
inductive RelatedAnswers {α β : Type} (R : α → β → Prop) : Answer α → Answer β → Prop where
  | next {a : α} {b : β} (h : R a b) : RelatedAnswers R (.next a) (.next b)
  | fault (e : Fault) : RelatedAnswers R (.fault e) (.fault e)
  | refused (r : Refusal) : RelatedAnswers R (.refused r) (.refused r)

theorem RelatedAnswers.chain {α β γ δ : Type} {R : α → β → Prop} {S : γ → δ → Prop} {a : Answer α} {b : Answer β}
    {f : α → Answer γ} {g : β → Answer δ} (h : RelatedAnswers R a b)
    (hfg : ∀ x y, R x y → RelatedAnswers S (f x) (g y)) : RelatedAnswers S (chain a f) (chain b g) := by
  cases h with
  | next h => exact hfg _ _ h
  | fault e => exact .fault e
  | refused r => exact .refused r

/-- `SameOutcome` is the relation on answers for the states of one machine that agree off the manager registers. -/
theorem sameOutcome_of_related {c : Config} {a b : Answer (StateOf c)} (h : RelatedAnswers AgreeOffManager a b) :
    SameOutcome c (Machine.chain a fun t => .next t.state) (Machine.chain b fun t => .next t.state) := by
  cases h with
  | next h => exact ⟨_, _, rfl, rfl, h⟩
  | fault e => rfl
  | refused r => rfl

variable {c : Config} {s t : StateOf c}

theorem mayAccessManager_iff {acr : Nat} : mayAccessManager acr = true ↔ acr = 0 ∨ acr = 1 := by
  simp [mayAccessManager]

theorem mayAccessManager_eq_false_iff {acr : Nat} : mayAccessManager acr = false ↔ 2 ≤ acr := by
  rw [Bool.eq_false_iff, Ne, mayAccessManager_iff]
  omega

/-! ## What keeps two states agreeing off the manager registers -/

theorem Claims.AgreeOffManager.readGpr_eq (h : AgreeOffManager s t) (i : Nat) : t.readGpr i = s.readGpr i := by
  rw [h.1]; rfl

theorem Claims.AgreeOffManager.acr_eq (h : AgreeOffManager s t) : t.acr = s.acr := by rw [h.1]

theorem Claims.AgreeOffManager.draws_eq (h : AgreeOffManager s t) : t.draws = s.draws := by rw [h.1]

theorem Claims.AgreeOffManager.useDraw (h : AgreeOffManager s t) : AgreeOffManager s.useDraw t.useDraw :=
  ⟨congrArg StateOf.useDraw h.1, h.2⟩

theorem Claims.AgreeOffManager.writeGpr (h : AgreeOffManager s t) (i : Nat) (v : Word c.xlen) :
    AgreeOffManager (s.writeGpr i v) (t.writeGpr i v) :=
  ⟨congrArg (StateOf.writeGpr · i v) h.1, h.2⟩

theorem Claims.AgreeOffManager.advance (h : AgreeOffManager s t) (len : Nat) :
    AgreeOffManager (s.advance len) (t.advance len) :=
  ⟨congrArg (StateOf.advance · len) h.1, h.2⟩

theorem Claims.AgreeOffManager.storeSsr (h : AgreeOffManager s t) (id : SsrId) (v : Word c.xlen) :
    AgreeOffManager (s.storeSsr id v) (t.storeSsr id v) := by
  refine ⟨congrArg (StateOf.storeSsr · id v) h.1, fun o ho => ?_⟩
  by_cases heq : o = id
  · subst heq; simp only [storedSsr_storeSsr_same]
  · simp only [storedSsr_storeSsr_other _ _ heq, h.2 o ho]

/-! ## What the operations answer on two such states -/

theorem Claims.AgreeOffManager.fetch_eq (h : AgreeOffManager s t) : fetch t = fetch s := by
  rw [h.1]; rfl

/-- Two results of a read: the same value, and states that agree off the manager registers. -/
def SameRead (p q : Word c.xlen × StateOf c) : Prop := q.1 = p.1 ∧ AgreeOffManager p.2 q.2

theorem Claims.AgreeOffManager.sameRead_draw (h : AgreeOffManager s t) : SameRead (draw s) (draw t) :=
  ⟨congrArg c.draw h.draws_eq, h.useDraw⟩

/-- A register outside the manager families is read alike, whatever its class. -/
theorem Claims.AgreeOffManager.sameRead_readByClass (h : AgreeOffManager s t) (r : SsrRow) {id : SsrId}
    (hm : isManager id = false) : SameRead (readByClass r id s) (readByClass r id t) := by
  unfold readByClass
  split
  · exact ⟨rfl, h⟩
  · exact h.sameRead_draw
  · exact ⟨h.2 id hm, h⟩
  · split_ifs
    · exact ⟨h.2 id hm, h⟩
    · exact h.sameRead_draw
  · split_ifs
    · exact ⟨by simp only [drawCstate, h.draws_eq, h.acr_eq], h.useDraw⟩
    · exact h.sameRead_draw

/-- From an ACR other than 0 and 1 the privilege check stands before every manager register, so a read looks at none
of them (R24, R28). -/
theorem Claims.AgreeOffManager.ssrRead_related (h : AgreeOffManager s t) (ha : mayAccessManager s.acr = false) (id : SsrId) :
    RelatedAnswers SameRead (ssrRead id s) (ssrRead id t) := by
  unfold ssrRead
  rw [h.acr_eq, ha]
  split
  · exact .fault _
  next r _ =>
    cases hm : isManager id
    · simp only [Bool.not_false, Bool.and_true, Bool.false_eq_true, if_false]
      split_ifs
      · exact .fault _
      · exact .next (h.sameRead_readByClass r hm)
    · simp only [Bool.not_false, Bool.and_true, if_true]
      split
      · exact .fault _
      · exact .next h.sameRead_draw

/-- Whether a write completes depends on no stored value, and it stores the same word on both sides (R29). -/
theorem Claims.AgreeOffManager.ssrWrite_related (h : AgreeOffManager s t) (id : SsrId) (v : Word c.xlen) :
    RelatedAnswers AgreeOffManager (ssrWrite id v s) (ssrWrite id v t) := by
  unfold ssrWrite
  rw [h.acr_eq]
  split
  · exact .fault _
  · split_ifs
    · split
      · exact .fault _
      · exact .next h
    · exact .fault _
    · unfold writeByClass
      split
      · exact .next (h.storeSsr id v)
      · exact .next (h.storeSsr id v)
      · exact .refused _
      · exact .fault _
      · exact .fault _

theorem Claims.AgreeOffManager.readToGpr_related (h : AgreeOffManager s t) (ha : mayAccessManager s.acr = false)
    (rd : Nat) (id : SsrId) (len : Nat) :
    RelatedAnswers AgreeOffManager (readToGpr rd id len s) (readToGpr rd id len t) :=
  (h.ssrRead_related ha id).chain fun p q hpq => .next (by
    rw [hpq.1]
    exact (hpq.2.writeGpr rd p.1).advance len)

theorem Claims.AgreeOffManager.writeFromGpr_related (h : AgreeOffManager s t) (id : SsrId) (rs len : Nat) :
    RelatedAnswers AgreeOffManager (writeFromGpr id rs len s) (writeFromGpr id rs len t) := by
  unfold writeFromGpr
  rw [h.readGpr_eq]
  exact (h.ssrWrite_related id _).chain fun _ _ hu => .next (hu.advance len)

theorem Claims.AgreeOffManager.swapWithGpr_related (h : AgreeOffManager s t) (ha : mayAccessManager s.acr = false)
    (rd : Nat) (id : SsrId) (rs len : Nat) :
    RelatedAnswers AgreeOffManager (swapWithGpr rd id rs len s) (swapWithGpr rd id rs len t) := by
  unfold swapWithGpr
  rw [h.readGpr_eq]
  refine (h.ssrRead_related ha id).chain fun p q hpq => ?_
  rw [hpq.1]
  exact (hpq.2.ssrWrite_related id _).chain fun _ _ hu => .next ((hu.writeGpr rd p.1).advance len)

theorem Claims.AgreeOffManager.bodyOf_related (h : AgreeOffManager s t) (ha : mayAccessManager s.acr = false) (i : Instr) :
    RelatedAnswers AgreeOffManager (bodyOf i s) (bodyOf i t) := by
  cases i with
  | ssrget rd id => exact h.readToGpr_related ha rd _ 4
  | ssrset id rs => exact h.writeFromGpr_related _ rs 4
  | ssrswap rd id rs => exact h.swapWithGpr_related ha rd _ rs 4
  | hlSsrget rd id => exact h.readToGpr_related ha rd id 6
  | hlSsrset id rs => exact h.writeFromGpr_related id rs 6
  | cSsrget rd code =>
    simp only [bodyOf]
    split
    · exact .refused _
    · exact h.readToGpr_related ha rd _ 2

/-- Settles O23: both states fetch the same term, and the meaning of each instruction keeps the relation, because a
read of a manager register stops or draws before it looks at one. -/
theorem otherAcrsLearnNothingOfManagerRegisters : Obligations.OtherAcrsLearnNothingOfManagerRegisters := by
  intro c s t ha h
  unfold step
  rw [show fetch t.state.body = fetch s from h.fetch_eq]
  show SameOutcome c (chain (fetch s) _) _
  cases fetch s with
  | next i =>
    simp only [chain_next, exec_state]
    exact sameOutcome_of_related (h.bodyOf_related (mayAccessManager_eq_false_iff.2 ha) i)
  | fault e => rfl
  | refused r => rfl

end Sys2Proof
end

section

namespace Sys2Proof

open Machine Claims

/-! ## What a step keeps -/

/-- A step that completes has only done what the instruction it ran may do (`Changes`). -/
theorem step_changes {c : Config} {s : StateOf c} {u : State} (h : step s.state = .next u) :
    ∃ (t : StateOf c) (i : Instr), u = t.state ∧ i.wellFormed c = true ∧ Changes i s t := by
  obtain ⟨i, -, hw, hx⟩ := step_next h
  obtain ⟨t, hu, ht⟩ := exec_changes hx
  exact ⟨t, i, hu, hw, ht⟩

/-- A destination outside the range of `GPR` makes a term ill-formed (R26, R160; log 4). -/
theorem hasGpr_of_destOf {c : Config} {i : Instr} {rd : Nat} (hd : i.destOf = some rd) (hw : i.wellFormed c = true) :
    c.hasGpr rd = true := by
  cases i <;> cases hd <;> simp_all [Instr.wellFormed]

variable {c : Config} {i : Instr} {s t : StateOf c}

theorem gprEntriesOk_of_putCell {rd : Nat} {v : Word c.xlen} (h : gprEntriesOk s = true) (hrd : c.hasGpr rd = true)
    (ht : t.gpr = putCell s.gpr rd v) : gprEntriesOk t = true := by
  simp only [gprEntriesOk, List.all_eq_true] at h ⊢
  rw [ht]
  intro e he
  obtain rfl | he := mem_putCell he
  · exact hrd
  · exact h e he

theorem ssrEntriesOk_of_putCell {id : SsrId} {v : Word c.xlen} (h : ssrEntriesOk s = true)
    (hid : isStored c.nacr id = true) (ht : t.ssr = putCell s.ssr id.toNat v) : ssrEntriesOk t = true := by
  simp only [ssrEntriesOk, List.all_eq_true, Bool.and_eq_true, decide_eq_true_eq] at h ⊢
  rw [ht]
  intro e he
  obtain rfl | he := mem_putCell he
  · exact ⟨id.isLt, by simpa using hid⟩
  · exact h e he

/-- The changes a well-formed instruction may make keep the invariant, field by field. -/
theorem Machine.Changes.inv (hch : Changes i s t) (hw : i.wellFormed c = true) (hs : s.state.Inv) : t.state.Inv where
  cfgOk := hs.cfgOk
  cstateOk := hs.cstateOk
  acrLt := hch.acr.symm ▸ hs.acrLt
  gprRising := by
    obtain hg | ⟨rd, v, -, hg⟩ := hch.gpr
    · exact hg.symm ▸ hs.gprRising
    · exact hg.symm ▸ rising_putCell rd v hs.gprRising
  gprInRange := by
    obtain hg | ⟨rd, v, hd, hg⟩ := hch.gpr
    · simpa only [gprEntriesOk, hg] using hs.gprInRange
    · exact gprEntriesOk_of_putCell hs.gprInRange (hasGpr_of_destOf hd hw) hg
  ssrRising := by
    obtain he | ⟨id, v, he, -, -⟩ := hch.ssr
    · exact he.symm ▸ hs.ssrRising
    · exact he.symm ▸ rising_putCell id.toNat v hs.ssrRising
  ssrStored := by
    obtain he | ⟨id, v, he, hid, -⟩ := hch.ssr
    · simpa only [ssrEntriesOk, he] using hs.ssrStored
    · exact ssrEntriesOk_of_putCell hs.ssrStored hid he
  memOk := hch.mem.symm ▸ hs.memOk

/-- Settles O44: a completing step made only the changes of a well-formed instruction. -/
theorem stepKeepsInvariant : Obligations.StepKeepsInvariant := by
  intro s u hs h
  obtain ⟨t, i, rfl, hw, hch⟩ := step_changes (s := s.body) h
  exact hch.inv hw hs

theorem Machine.Changes.kept (hch : Changes i s t) : Kept s t where
  acr := hch.acr
  program := hch.program
  bytes _ := by rw [hch.mem]

/-- Settles O42: `Changes` names the active ACR, the program and the bytes among what stays. -/
theorem stepKeepsAcrParametersProgramAndBytes : Obligations.StepKeepsAcrParametersProgramAndBytes := by
  intro c s u h
  obtain ⟨t, i, hu, -, hch⟩ := step_changes h
  exact ⟨t, hu, hch.kept⟩

/-- An instruction alters the stored value of a register of class S or L that it may reach, or of none. -/
theorem Machine.Changes.storedSsr_eq (hch : Changes i s t) {id : SsrId}
    (h : isStored c.nacr id = true → isManager id = true ∧ mayAccessManager s.acr = false) :
    t.storedSsr id = s.storedSsr id := by
  unfold StateOf.storedSsr
  obtain he | ⟨o, v, he, ho, hp⟩ := hch.ssr
  · rw [he]
  · have hne : id.toNat ≠ o.toNat := by
      intro heq
      obtain rfl := BitVec.eq_of_toNat_eq heq
      obtain ⟨hm, ha⟩ := h ho
      simp [hp hm] at ha
    rw [he, cellAt_putCell_other _ _ hne]

/-- Settles O43: an instruction stores only into registers of class S or L. -/
theorem liveControlNeverStored : Obligations.LiveControlNeverStored := by
  intro c s u h
  obtain ⟨t, i, hu, -, hch⟩ := step_changes h
  exact ⟨t, hu, fun id hid => hch.storedSsr_eq (by simp [hid])⟩

/-- Settles O22: an instruction stores only into registers it may reach, and from these ACRs it reaches no manager
register. -/
theorem otherAcrsCannotChangeManagerRegisters : Obligations.OtherAcrsCannotChangeManagerRegisters := by
  intro c s u ha h
  obtain ⟨t, i, hu, -, hch⟩ := step_changes h
  exact ⟨t, hu, fun id hm => hch.storedSsr_eq fun _ => ⟨hm, mayAccessManager_eq_false_iff.2 ha⟩⟩

end Sys2Proof
end

section

namespace Sys2Proof

open Machine Claims

/-! ## What an access answers, by the checks of R28 and R29 -/

theorem Config.policy_eq_raise {c : Config} (h : c.otherAcrPolicy ≠ some .ignore) : c.policy = .raise := by
  unfold Config.policy
  cases hp : c.otherAcrPolicy with
  | none => rfl
  | some p =>
    cases p with
    | ignore => exact absurd hp h
    | raise => rfl

theorem Config.policy_eq_ignore {c : Config} (h : c.otherAcrPolicy = some .ignore) : c.policy = .ignore := by
  simp [Config.policy, h]

/-- A defined register is read-only, of class X, or of a class whose writes are stored (R30). -/
theorem findRow_readOnly_or_live_or_stored {nacr : Nat} {id : SsrId} {r : SsrRow} (hr : findRow nacr id = some r) :
    r.access = .ro ∨ r.cls = .x ∨ r.cls = .s ∨ r.cls = .l := by
  obtain ⟨-, -, hro⟩ := findRow_class_access hr
  tauto

variable {c : Config} {s : StateOf c} {id : SsrId} {r : SsrRow} {v : Word c.xlen}

theorem permitted_of_mayReach (h : MayReach s id) : isManager id = true → mayAccessManager s.acr = true :=
  fun hm => mayAccessManager_iff.2 (h hm)

/-- What `readByClass` returns meets the law R28 and R30 give the register's class; for `CSTATE` it is the law of its
draws (R25). -/
theorem readable_readByClass (r : SsrRow) (id : SsrId) (s : StateOf c) : Readable s r id (readByClass r id s).1 := by
  unfold Readable readByClass
  cases hcls : r.cls with
  | k n => rfl
  | t => trivial
  | s => rfl
  | l => exact fun hid => by simp only [hid, if_true]
  | x =>
    intro hid hw
    rw [if_pos (show id = cstateId from hid)]
    exact Config.acrOfCstate_drawCstate s.draws hw

theorem readByClass_acr (r : SsrRow) (id : SsrId) (s : StateOf c) : (readByClass r id s).2.acr = s.acr := by
  obtain h | h := readByClass_state r id s <;> simp [h]

theorem mayReach_readByClass (r : SsrRow) (h : MayReach s id) : MayReach (readByClass r id s).2 id := by
  rwa [MayReach, readByClass_acr]

section
variable (hr : findRow c.nacr id = some r)
include hr

theorem ssrRead_of_mayReach (hm : MayReach s id) (ha : r.access ≠ .wo) : ssrRead id s = .next (readByClass r id s) :=
  ssrRead_permitted hr (permitted_of_mayReach hm) ha

theorem ssrRead_writeOnly (hm : MayReach s id) (ha : r.access = .wo) : ssrRead id s = .fault (.ssrReadOfWO id) := by
  have hp := permitted_of_mayReach hm
  cases hi : isManager id <;> simp_all [ssrRead, raise]

theorem ssrWrite_of_stored (hm : MayReach s id) (hc : r.cls = .s ∨ r.cls = .l) :
    ssrWrite id v s = .next (s.storeSsr id v) :=
  ssrWrite_permitted hr (permitted_of_mayReach hm) hc

theorem ssrWrite_readOnly (hm : MayReach s id) (ha : r.access = .ro) :
    ssrWrite id v s = .fault (.ssrWriteOfRO id) := by
  have hp := permitted_of_mayReach hm
  cases hi : isManager id <;> simp_all [ssrWrite, raise]

theorem ssrWrite_liveControl (hm : MayReach s id) (hc : r.cls = .x) :
    ssrWrite id v s = .refused (.liveControlWrite id) := by
  have hp := permitted_of_mayReach hm
  have ha := (findRow_class_access hr).2.1 hc
  cases hi : isManager id <;> simp_all [ssrWrite, writeByClass, refuse]

theorem ssrRead_of_barred_raise (hb : Barred s id) (hp : c.otherAcrPolicy ≠ some .ignore) :
    ssrRead id s = .fault (.ssrPrivilege id s.acr) :=
  ssrRead_barred_raise hr hb.1 (mayAccessManager_eq_false_iff.2 hb.2) (Config.policy_eq_raise hp)

theorem ssrWrite_of_barred_raise (hb : Barred s id) (hp : c.otherAcrPolicy ≠ some .ignore) :
    ssrWrite id v s = .fault (.ssrPrivilege id s.acr) :=
  ssrWrite_barred_raise hr hb.1 (mayAccessManager_eq_false_iff.2 hb.2) (Config.policy_eq_raise hp)

theorem ssrRead_of_barred_ignore (hb : Barred s id) (hp : c.otherAcrPolicy = some .ignore) :
    ssrRead id s = .next (draw s) :=
  ssrRead_barred_ignore hr hb.1 (mayAccessManager_eq_false_iff.2 hb.2) (Config.policy_eq_ignore hp)

theorem ssrWrite_of_barred_ignore (hb : Barred s id) (hp : c.otherAcrPolicy = some .ignore) :
    ssrWrite id v s = .next s :=
  ssrWrite_barred_ignore hr hb.1 (mayAccessManager_eq_false_iff.2 hb.2) (Config.policy_eq_ignore hp)

theorem ssrRead_fault_of_mayReach (hm : MayReach s id) {f : Fault} (h : ssrRead id s = .fault f) :
    f = .ssrReadOfWO id := by
  by_cases ha : r.access = .wo
  · rw [ssrRead_writeOnly hr hm ha] at h
    cases h; rfl
  · rw [ssrRead_of_mayReach hr hm ha] at h
    cases h

theorem ssrWrite_fault_of_mayReach (hm : MayReach s id) {f : Fault} (h : ssrWrite id v s = .fault f) :
    f = .ssrWriteOfRO id := by
  obtain ha | hc | hc := findRow_readOnly_or_live_or_stored hr
  · rw [ssrWrite_readOnly hr hm ha] at h
    cases h; rfl
  · rw [ssrWrite_liveControl hr hm hc] at h
    cases h
  · rw [ssrWrite_of_stored hr hm hc] at h
    cases h

end

/-- Settles O21: where the check of R24 passes, the access class and the behaviour class decide; where it does not, the
policy. -/
theorem privilegeRule : Obligations.PrivilegeRule := by
  intro c s id v r hr
  refine ⟨fun hm => ⟨fun f hf => ssrRead_fault_of_mayReach hr hm hf, fun f hf => ssrWrite_fault_of_mayReach hr hm hf,
    fun ha => ⟨_, _, ssrRead_of_mayReach hr hm ha, readByClass_state r id s⟩, fun ha hx => ?_⟩,
    fun hb hp => ?_, fun hb hp => ⟨⟨_, ssrRead_of_barred_ignore hr hb hp⟩, ssrWrite_of_barred_ignore hr hb hp⟩⟩
  · exact ssrWrite_of_stored hr hm (((findRow_readOnly_or_live_or_stored hr).resolve_left ha).resolve_left hx)
  · have hp : c.otherAcrPolicy ≠ some .ignore := by rcases hp with hp | hp <;> simp [hp]
    exact ⟨ssrRead_of_barred_raise hr hb hp, ssrWrite_of_barred_raise hr hb hp⟩

end Sys2Proof
end

section

namespace Sys2Proof

open Machine Claims

/-! ## The three moves between an SSR and a general register -/

variable {c : Config} {s u : StateOf c} {id : SsrId} {r : SsrRow} {rd rs : Nat}

/-- What a read leaves behind, one more free value used or none, keeps all but `x[rd]` and `pc`. -/
theorem readFrame_writeGpr_advance (hu : u = s ∨ u = s.useDraw) (v : Word c.xlen) (len : Nat) :
    ReadFrame rd s ((u.writeGpr rd v).advance len) := by
  obtain rfl | rfl := hu <;> exact ⟨⟨rfl, rfl, fun _ => rfl⟩, fun j hj => readGpr_writeGpr_other _ v hj, fun _ => rfl⟩

theorem writeFrame_storeSsr_advance (s : StateOf c) (id : SsrId) (v : Word c.xlen) (len : Nat) :
    WriteFrame id s ((s.storeSsr id v).advance len) :=
  ⟨⟨rfl, rfl, fun _ => rfl⟩, fun _ => rfl, fun _ ho => storedSsr_storeSsr_other s v ho⟩

theorem swapFrame_storeSsr_writeGpr_advance (hu : u = s ∨ u = s.useDraw) (v w : Word c.xlen) (len : Nat) :
    SwapFrame rd id s (((u.storeSsr id v).writeGpr rd w).advance len) := by
  obtain rfl | rfl := hu <;> exact ⟨⟨rfl, rfl, fun _ => rfl⟩, fun j hj => readGpr_writeGpr_other _ w hj,
    fun o ho => storedSsr_storeSsr_other _ v ho⟩

/-- A read that is answered is moved into `x[rd]`. -/
theorem readToGpr_completes (rd len : Nat) {p : Word c.xlen × StateOf c} (h : ssrRead id s = .next p) :
    ∃ t, readToGpr rd id len s = .next t ∧ t.readGpr rd = p.1 ∧ t.pc = s.pc + BitVec.ofNat c.xlen len ∧
      ReadFrame rd s t := by
  have hp := ssrRead_state h
  refine ⟨(p.2.writeGpr rd p.1).advance len, by rw [readToGpr, h, chain_next], by simp, ?_,
    readFrame_writeGpr_advance hp _ len⟩
  obtain hp | hp := hp <;> rw [hp] <;> rfl

/-- A permitted read of a readable register leaves in `x[rd]` a value its class allows. -/
theorem readToGpr_permitted (rd len : Nat) (hr : findRow c.nacr id = some r) (hm : MayReach s id)
    (ha : r.access ≠ .wo) :
    ∃ t, readToGpr rd id len s = .next t ∧ Readable s r id (t.readGpr rd) ∧
      t.pc = s.pc + BitVec.ofNat c.xlen len ∧ ReadFrame rd s t := by
  obtain ⟨t, ht, hv, hpc, hf⟩ := readToGpr_completes rd len (ssrRead_of_mayReach hr hm ha)
  exact ⟨t, ht, hv ▸ readable_readByClass r id s, hpc, hf⟩

/-- A permitted write of a class S or L register stores `x[rs]`. -/
theorem writeFromGpr_permitted (rs len : Nat) (hr : findRow c.nacr id = some r) (hm : MayReach s id)
    (hc : r.cls = .s ∨ r.cls = .l) :
    ∃ t, writeFromGpr id rs len s = .next t ∧ t.storedSsr id = s.readGpr rs ∧
      t.pc = s.pc + BitVec.ofNat c.xlen len ∧ WriteFrame id s t :=
  ⟨(s.storeSsr id (s.readGpr rs)).advance len, by rw [writeFromGpr, ssrWrite_of_stored hr hm hc, chain_next], by simp,
    rfl, writeFrame_storeSsr_advance s id _ len⟩

/-- A permitted swap with a class S or L register stores the old `x[rs]` and leaves the value read in `x[rd]`. -/
theorem swapWithGpr_permitted (rd rs len : Nat) (hr : findRow c.nacr id = some r) (hm : MayReach s id)
    (hc : r.cls = .s ∨ r.cls = .l) :
    ∃ t, swapWithGpr rd id rs len s = .next t ∧ Readable s r id (t.readGpr rd) ∧ t.storedSsr id = s.readGpr rs ∧
      t.pc = s.pc + BitVec.ofNat c.xlen len ∧ SwapFrame rd id s t := by
  have ha : r.access ≠ .wo := by simp [(findRow_class_access hr).1 hc]
  have hp := readByClass_state r id s
  refine ⟨(((readByClass r id s).2.storeSsr id (s.readGpr rs)).writeGpr rd (readByClass r id s).1).advance len, ?_, ?_,
    by simp, ?_, swapFrame_storeSsr_writeGpr_advance hp _ _ len⟩
  · rw [swapWithGpr, ssrRead_of_mayReach hr hm ha, chain_next,
      ssrWrite_of_stored hr (mayReach_readByClass r hm) hc, chain_next]
  · simpa using readable_readByClass r id s
  · obtain hp | hp := hp <;> rw [hp] <;> rfl

theorem readToGpr_fault (rd len : Nat) {f : Fault} (h : ssrRead id s = .fault f) :
    readToGpr rd id len s = .fault f := by rw [readToGpr, h, chain_fault]

theorem swapWithGpr_read_fault (rd rs len : Nat) {f : Fault} (h : ssrRead id s = .fault f) :
    swapWithGpr rd id rs len s = .fault f := by rw [swapWithGpr, h, chain_fault]

/-! ## The instructions as moves: a 32-bit form where the identifier fits, the 16-bit one through the table -/

theorem exec_hlSsrget (rd : Nat) (id : SsrId) (s : StateOf c) :
    exec (.hlSsrget rd id) s.state = chain (readToGpr rd id 6 s) (fun t => .next t.state) := exec_state _ s

theorem exec_hlSsrset (id : SsrId) (rs : Nat) (s : StateOf c) :
    exec (.hlSsrset id rs) s.state = chain (writeFromGpr id rs 6 s) (fun t => .next t.state) := exec_state _ s

theorem exec_ssrget_of_fits12 (h : fits12 id = true) (rd : Nat) (s : StateOf c) :
    exec (.ssrget rd id) s.state = chain (readToGpr rd id 4 s) (fun t => .next t.state) := by
  rw [exec_state, bodyOf, named12_of_fits h]

theorem exec_ssrset_of_fits12 (h : fits12 id = true) (rs : Nat) (s : StateOf c) :
    exec (.ssrset id rs) s.state = chain (writeFromGpr id rs 4 s) (fun t => .next t.state) := by
  rw [exec_state, bodyOf, named12_of_fits h]

theorem exec_ssrswap_of_fits12 (h : fits12 id = true) (rd rs : Nat) (s : StateOf c) :
    exec (.ssrswap rd id rs) s.state = chain (swapWithGpr rd id rs 4 s) (fun t => .next t.state) := by
  rw [exec_state, bodyOf, named12_of_fits h]

theorem exec_cSsrget_of_not_remap {code : Nat} (h : remapOf c code = none) (rd : Nat) (s : StateOf c) :
    exec (.cSsrget rd code) s.state = .refused (.cRemapMissing code) := by
  simp only [exec_state, bodyOf, h, chain_refused]

theorem exec_cSsrget_of_remap {code : Nat} (h : remapOf c code = some id) (rd : Nat) (s : StateOf c) :
    exec (.cSsrget rd code) s.state = chain (readToGpr rd id 2 s) (fun t => .next t.state) := by
  simp only [exec_state, bodyOf, h]

/-! ## Where the instructions complete -/

/-- Settles O24: a permitted read, moved into `x[rd]`, `pc` 4 further. -/
theorem ssrgetCompletes : Obligations.SsrgetCompletes := by
  intro c s rd id r hfit hr hm ha
  obtain ⟨t, ht, hrest⟩ := readToGpr_permitted rd 4 hr hm ha
  exact ⟨t, by rw [exec_ssrget_of_fits12 hfit, ht, chain_next], hrest⟩

/-- Settles O25: the same move as in `SSRGET`, with the whole identifier and `pc` 6 further. -/
theorem hlSsrgetCompletes : Obligations.HlSsrgetCompletes := by
  intro c s rd id r hr hm ha
  obtain ⟨t, ht, hrest⟩ := readToGpr_permitted rd 6 hr hm ha
  exact ⟨t, by rw [exec_hlSsrget, ht, chain_next], hrest⟩

/-- Settles O26: the same move, with the table's identifier and `pc` 2 further. -/
theorem cSsrgetCompletes : Obligations.CSsrgetCompletes := by
  intro c s rd code id r hcode hr hm ha
  obtain ⟨t, ht, hrest⟩ := readToGpr_permitted rd 2 hr hm ha
  exact ⟨t, by rw [exec_cSsrget_of_remap hcode, ht, chain_next], hrest⟩

/-- Settles O27: a permitted write of `x[rs]`, `pc` 4 further. -/
theorem ssrsetCompletes : Obligations.SsrsetCompletes := by
  intro c s id rs r hfit hr hm hc
  obtain ⟨t, ht, hrest⟩ := writeFromGpr_permitted rs 4 hr hm hc
  exact ⟨t, by rw [exec_ssrset_of_fits12 hfit, ht, chain_next], hrest⟩

/-- Settles O28: the same move as in `SSRSET`, with the whole identifier and `pc` 6 further. -/
theorem hlSsrsetCompletes : Obligations.HlSsrsetCompletes := by
  intro c s id rs r hr hm hc
  obtain ⟨t, ht, hrest⟩ := writeFromGpr_permitted rs 6 hr hm hc
  exact ⟨t, by rw [exec_hlSsrset, ht, chain_next], hrest⟩

/-- Settles O29: a permitted read, then a permitted write, then the move into `x[rd]`. -/
theorem ssrswapCompletes : Obligations.SsrswapCompletes := by
  intro c s rd rs id r hfit hr hm hc
  obtain ⟨t, ht, hrest⟩ := swapWithGpr_permitted rd rs 4 hr hm hc
  exact ⟨t, by rw [exec_ssrswap_of_fits12 hfit, ht, chain_next], hrest⟩

/-! ## Where they stop -/

/-- A fault of the read primitive is the fault of every instruction that begins with it. -/
theorem exec_reads_fault {f : Fault} (h : ssrRead id s = .fault f) (rd : Nat) :
    exec (.hlSsrget rd id) s.state = .fault f ∧
    (∀ code, remapOf c code = some id → exec (.cSsrget rd code) s.state = .fault f) ∧
    (fits12 id = true → exec (.ssrget rd id) s.state = .fault f) := by
  refine ⟨?_, fun code hcode => ?_, fun hfit => ?_⟩
  · rw [exec_hlSsrget, readToGpr_fault rd 6 h, chain_fault]
  · rw [exec_cSsrget_of_remap hcode, readToGpr_fault rd 2 h, chain_fault]
  · rw [exec_ssrget_of_fits12 hfit, readToGpr_fault rd 4 h, chain_fault]

theorem exec_swap_fault {f : Fault} (hfit : fits12 id = true) (h : ssrRead id s = .fault f) (rd rs : Nat) :
    exec (.ssrswap rd id rs) s.state = .fault f := by
  rw [exec_ssrswap_of_fits12 hfit, swapWithGpr_read_fault rd rs 4 h, chain_fault]

/-- A fault of the write primitive is the fault of the two stores. -/
theorem exec_writes_fault {f : Fault} (h : ∀ v, ssrWrite id v s = .fault f) (rs : Nat) :
    exec (.hlSsrset id rs) s.state = .fault f ∧
    (fits12 id = true → exec (.ssrset id rs) s.state = .fault f) := by
  refine ⟨?_, fun hfit => ?_⟩
  · rw [exec_hlSsrset, writeFromGpr, h, chain_fault, chain_fault]
  · rw [exec_ssrset_of_fits12 hfit, writeFromGpr, h, chain_fault, chain_fault]

/-- A refusal of the write primitive is the refusal of the two stores. -/
theorem exec_writes_refused {q : Refusal} (h : ∀ v, ssrWrite id v s = .refused q) (rs : Nat) :
    exec (.hlSsrset id rs) s.state = .refused q ∧
    (fits12 id = true → exec (.ssrset id rs) s.state = .refused q) := by
  refine ⟨?_, fun hfit => ?_⟩
  · rw [exec_hlSsrset, writeFromGpr, h, chain_refused, chain_refused]
  · rw [exec_ssrset_of_fits12 hfit, writeFromGpr, h, chain_refused, chain_refused]

/-- Settles O30: the fault is that of the read. -/
theorem readInstructionsStop : Obligations.ReadInstructionsStop := fun _ _ rd _ _ hr =>
  ⟨fun hb hp => exec_reads_fault (ssrRead_of_barred_raise hr hb hp) rd,
    fun hm ha => exec_reads_fault (ssrRead_writeOnly hr hm ha) rd⟩

/-- Settles O31: the stop is that of the write. -/
theorem writeInstructionsStop : Obligations.WriteInstructionsStop := fun _ _ rs _ _ hr =>
  ⟨fun hb hp => exec_writes_fault (fun _ => ssrWrite_of_barred_raise hr hb hp) rs,
    fun hm ha => exec_writes_fault (fun _ => ssrWrite_readOnly hr hm ha) rs,
    fun hm hc => exec_writes_refused (fun _ => ssrWrite_liveControl hr hm hc) rs⟩

/-- Settles O32: the first two stops are the read's; where the read is answered, the write stops from the state it
leaves, which may reach the same registers. -/
theorem swapStops : Obligations.SwapStops := by
  intro c s rd rs id r hfit hr
  refine ⟨fun hb hp => exec_swap_fault hfit (ssrRead_of_barred_raise hr hb hp) rd rs,
    fun hm ha => exec_swap_fault hfit (ssrRead_writeOnly hr hm ha) rd rs, fun hm ha => ?_, fun hm ha hc => ?_⟩
  · rw [exec_ssrswap_of_fits12 hfit, swapWithGpr, ssrRead_of_mayReach hr hm (by simp [ha]), chain_next,
      ssrWrite_readOnly hr (mayReach_readByClass r hm) ha, chain_fault, chain_fault]
  · rw [exec_ssrswap_of_fits12 hfit, swapWithGpr, ssrRead_of_mayReach hr hm (by simp [ha]), chain_next,
      ssrWrite_liveControl hr (mayReach_readByClass r hm) hc, chain_refused, chain_refused]

/-! ## Under the policy `ignore` -/

/-- Settles O33: an ignored read is a draw, an ignored write nothing. -/
theorem ignoredAccessesComplete : Obligations.IgnoredAccessesComplete := by
  intro c s rd rs id r hr hb hp
  have hread := ssrRead_of_barred_ignore hr hb hp
  have hwrite : ssrWrite id (s.readGpr rs) s = .next s := ssrWrite_of_barred_ignore hr hb hp
  have hwrite' : ssrWrite id (s.readGpr rs) s.useDraw = .next s.useDraw :=
    ssrWrite_of_barred_ignore (s := s.useDraw) hr hb hp
  refine ⟨?_, by rw [exec_hlSsrset, writeFromGpr, hwrite, chain_next, chain_next], fun code hcode => ?_,
    fun hfit => ⟨?_, by rw [exec_ssrset_of_fits12 hfit, writeFromGpr, hwrite, chain_next, chain_next], ?_⟩⟩
  · obtain ⟨t, ht, -, hrest⟩ := readToGpr_completes rd 6 hread
    exact ⟨t, by rw [exec_hlSsrget, ht, chain_next], hrest⟩
  · obtain ⟨t, ht, -, hrest⟩ := readToGpr_completes rd 2 hread
    exact ⟨t, by rw [exec_cSsrget_of_remap hcode, ht, chain_next], hrest⟩
  · obtain ⟨t, ht, -, hrest⟩ := readToGpr_completes rd 4 hread
    exact ⟨t, by rw [exec_ssrget_of_fits12 hfit, ht, chain_next], hrest⟩
  · refine ⟨(s.useDraw.writeGpr rd (draw s).1).advance 4, ?_, rfl, readFrame_writeGpr_advance (.inr rfl) _ 4⟩
    rw [exec_ssrswap_of_fits12 hfit, swapWithGpr, hread, chain_next, show (draw s).2 = s.useDraw from rfl, hwrite',
      chain_next, chain_next]

/-! ## The length of a form is all that its meaning adds to the move -/

theorem chain_chain {α β γ : Type} (a : Answer α) (f : α → Answer β) (g : β → Answer γ) :
    chain (chain a f) g = chain a fun x => chain (f x) g := by
  cases a <;> rfl

theorem advance_advance (s : StateOf c) (m n : Nat) : (s.advance m).advance n = s.advance (m + n) := by
  simp only [StateOf.advance, BitVec.ofNat_add, BitVec.add_assoc]

theorem readToGpr_add (rd : Nat) (id : SsrId) (m n : Nat) (s : StateOf c) :
    readToGpr rd id (m + n) s = chain (readToGpr rd id m s) (fun t => .next (t.advance n)) := by
  simp only [readToGpr, chain_chain, chain_next, advance_advance]

theorem writeFromGpr_add (id : SsrId) (rs : Nat) (m n : Nat) (s : StateOf c) :
    writeFromGpr id rs (m + n) s = chain (writeFromGpr id rs m s) (fun t => .next (t.advance n)) := by
  simp only [writeFromGpr, chain_chain, chain_next, advance_advance]

/-- Settles O34: a code the table maps is read as `HL.SSRGET` reads it, with `pc` four less far. -/
theorem compactReadFollowsTheTable : Obligations.CompactReadFollowsTheTable := by
  rintro ⟨c, s⟩ rd code
  refine ⟨fun h => exec_cSsrget_of_not_remap h rd s, fun id h => ?_⟩
  rw [exec_cSsrget_of_remap h, exec_hlSsrget, readToGpr_add rd id 2 4, chain_chain, chain_chain]
  rfl

/-! ## The frame of every instruction -/

variable {i : Instr} {t : StateOf c}

theorem Machine.Changes.readGpr_eq (hch : Changes i s t) {j : Nat} (h : i.destOf ≠ some j) :
    t.readGpr j = s.readGpr j := by
  unfold StateOf.readGpr
  obtain hg | ⟨rd, v, hd, hg⟩ := hch.gpr
  · rw [hg]
  · have hne : j ≠ rd := fun heq => h (heq ▸ hd)
    rw [hg, cellAt_putCell_other _ _ hne]

theorem storedSsr_of_readToGpr {len : Nat} (h : readToGpr rd id len s = .next t) (o : SsrId) :
    t.storedSsr o = s.storedSsr o := by
  obtain ⟨p, -, hp | hp, rfl⟩ := readToGpr_next h <;> simp [hp]

theorem storedSsr_of_ssrWrite {v : Word c.xlen} (h : ssrWrite id v s = .next t) {o : SsrId} (ho : o ≠ id) :
    t.storedSsr o = s.storedSsr o := by
  obtain ⟨rfl, -, -⟩ | ⟨rfl, -, -⟩ := ssrWrite_state h
  · rfl
  · exact storedSsr_storeSsr_other s v ho

theorem storedSsr_of_writeFromGpr {len : Nat} (h : writeFromGpr id rs len s = .next t) {o : SsrId} (ho : o ≠ id) :
    t.storedSsr o = s.storedSsr o := by
  obtain ⟨u, hu, rfl⟩ := writeFromGpr_next h
  exact storedSsr_of_ssrWrite hu ho

theorem storedSsr_of_swapWithGpr {len : Nat} (h : swapWithGpr rd id rs len s = .next t) {o : SsrId} (ho : o ≠ id) :
    t.storedSsr o = s.storedSsr o := by
  obtain ⟨p, u, -, hp, hu, rfl⟩ := swapWithGpr_next h
  have hout := storedSsr_of_ssrWrite hu ho
  obtain hp | hp := hp <;> simpa [hp] using hout

/-- A well-formed instruction that completes alters no stored SSR but the one it names for writing (R158, R170). -/
theorem storedSsr_of_bodyOf (hw : i.wellFormed c = true) (h : bodyOf i s = .next t) {o : SsrId}
    (ho : i.writtenSsr ≠ some o) : t.storedSsr o = s.storedSsr o := by
  cases i with
  | ssrget rd id => exact storedSsr_of_readToGpr h o
  | hlSsrget rd id => exact storedSsr_of_readToGpr h o
  | cSsrget rd code =>
    simp only [bodyOf] at h
    split at h
    · cases h
    · exact storedSsr_of_readToGpr h o
  | hlSsrset id rs => exact storedSsr_of_writeFromGpr h fun heq => ho (heq ▸ rfl)
  | ssrset id rs =>
    simp only [Instr.wellFormed, Bool.and_eq_true] at hw
    rw [bodyOf, named12_of_fits hw.1] at h
    exact storedSsr_of_writeFromGpr h fun heq => ho (heq ▸ rfl)
  | ssrswap rd id rs =>
    simp only [Instr.wellFormed, Bool.and_eq_true] at hw
    rw [bodyOf, named12_of_fits hw.1.1] at h
    exact storedSsr_of_swapWithGpr h fun heq => ho (heq ▸ rfl)

/-- Settles O35: `Changes` gives all but which SSR is stored, and that is the one the term names. -/
theorem nothingElseIsWritten : Obligations.NothingElseIsWritten := by
  intro c i s u hw h
  obtain ⟨t, hu, hb⟩ := exec_eq_next.1 h
  have hch := bodyOf_changes hb
  exact ⟨t, hu, fun _ hj => hch.readGpr_eq hj, fun _ ho => storedSsr_of_bodyOf hw hb ho, hch.pc, hch.kept⟩

/-! ## Writing and reading a scratch register -/

theorem eq_storedSsr_of_readable {v : Word c.xlen} (hc : r.cls = .s) (h : Readable s r id v) :
    v = s.storedSsr id := by
  simpa [Readable, hc] using h

section
variable (hr : findRow c.nacr id = some r) (hc : r.cls = .s) (hm : MayReach s id)
include hr hc hm

/-- Every instruction that writes a class S register completes and stores `x[rs]`, whichever of the three it is. -/
theorem exec_of_writesTo (hi : WritesTo rs id i) :
    ∃ t : StateOf c, exec i s.state = .next t.state ∧ t.storedSsr id = s.readGpr rs ∧ t.acr = s.acr := by
  obtain rfl | ⟨hfit, rfl | ⟨rd, rfl⟩⟩ := hi
  · obtain ⟨t, ht, hst, -, hf⟩ := hlSsrsetCompletes c s id rs r hr hm (.inl hc)
    exact ⟨t, ht, hst, hf.kept.acr⟩
  · obtain ⟨t, ht, hst, -, hf⟩ := ssrsetCompletes c s id rs r hfit hr hm (.inl hc)
    exact ⟨t, ht, hst, hf.kept.acr⟩
  · obtain ⟨t, ht, -, hst, -, hf⟩ := ssrswapCompletes c s rd rs id r hfit hr hm (.inl hc)
    exact ⟨t, ht, hst, hf.kept.acr⟩

/-- Every instruction that reads a class S register completes with the stored value in `x[rd]`, whichever of the four
it is. -/
theorem exec_of_readsFrom (hi : ReadsFrom c rd id i) :
    ∃ t : StateOf c, exec i s.state = .next t.state ∧ t.readGpr rd = s.storedSsr id := by
  have ha : r.access ≠ .wo := by simp [(findRow_class_access hr).1 (.inl hc)]
  obtain rfl | ⟨hfit, rfl | ⟨rs, rfl⟩⟩ | ⟨code, hcode, rfl⟩ := hi
  · obtain ⟨t, ht, hv, -⟩ := hlSsrgetCompletes c s rd id r hr hm ha
    exact ⟨t, ht, eq_storedSsr_of_readable hc hv⟩
  · obtain ⟨t, ht, hv, -⟩ := ssrgetCompletes c s rd id r hfit hr hm ha
    exact ⟨t, ht, eq_storedSsr_of_readable hc hv⟩
  · obtain ⟨t, ht, hv, -⟩ := ssrswapCompletes c s rd rs id r hfit hr hm (.inl hc)
    exact ⟨t, ht, eq_storedSsr_of_readable hc hv⟩
  · obtain ⟨t, ht, hv, -⟩ := cSsrgetCompletes c s rd code id r hcode hr hm ha
    exact ⟨t, ht, eq_storedSsr_of_readable hc hv⟩

end

/-- Settles O36: the write stores `x[rs]` and the read, from the same active ACR, returns what is stored. -/
theorem scratchWriteSeenByRead : Obligations.ScratchWriteSeenByRead := by
  intro c s rd rs id r i j hr hc hm hi hj
  obtain ⟨t, ht, hst, hacr⟩ := exec_of_writesTo hr hc hm hi
  obtain ⟨u, hu, hv⟩ := exec_of_readsFrom hr hc (by rwa [MayReach, hacr]) hj
  exact ⟨t, u, ht, hu, hv.trans hst⟩

/-- Settles O37: each swap exchanges `x[rd]` and the register, and touches nothing else. -/
theorem swapTwiceRestores : Obligations.SwapTwiceRestores := by
  intro c s rd id r hfit hr hc hm
  obtain ⟨t, ht, hv, hst, -, hf⟩ := ssrswapCompletes c s rd rd id r hfit hr hm (.inl hc)
  have hv := eq_storedSsr_of_readable hc hv
  obtain ⟨u, hu, hv', hst', -, hf'⟩ :=
    ssrswapCompletes c t rd rd id r hfit hr (by rwa [MayReach, hf.kept.acr]) (.inl hc)
  have hv' := eq_storedSsr_of_readable hc hv'
  refine ⟨t, u, ht, hv, hst, hu, fun j => ?_, fun o => ?_⟩
  · by_cases hj : j = rd
    · rw [hj, hv', hst]
    · rw [hf'.gpr j hj, hf.gpr j hj]
  · by_cases ho : o = id
    · rw [ho, hst', hv]
    · rw [hf'.ssr o ho, hf.ssr o ho]

end Sys2Proof
end

section

namespace Sys2Proof

open Machine Claims

/-! ## What stands at `pc` -/

variable {c : Config} {s : StateOf c} {i : Instr} {xlen : Nat} {m : Memory} {a : Word xlen}

theorem bytesFrom_of_read_none (h : m.read a = none) (n : Nat) : m.bytesFrom n a = [] := by
  cases n with
  | zero => rfl
  | succ n => rw [Memory.bytesFrom, h]

theorem bytesFrom_of_read_some {b : Byte} (h : m.read a = some b) (n : Nat) :
    m.bytesFrom (n + 1) a = b :: m.bytesFrom n (a + 1) := by
  rw [Memory.bytesFrom, h]

theorem step_of_fetch_next (h : fetch s = .next i) : step s.state = exec i s.state := by
  rw [step, h, chain_next]

theorem step_of_fetch_fault {f : Fault} (h : fetch s = .fault f) : step s.state = .fault f := by
  rw [step, h, chain_fault]

theorem step_of_fetch_refused {q : Refusal} (h : fetch s = .refused q) : step s.state = .refused q := by
  rw [step, h, chain_refused]

theorem fetch_of_termAt (h : termAt s.program s.pc = some i) : fetch s = checkTerm c i := by
  rw [fetch, h]

theorem fetch_of_byte (ht : termAt s.program s.pc = none) {b : Byte} (hb : s.mem.read s.pc = some b) :
    fetch s = .refused .unknownEncoding := by
  simp only [fetch, ht, longestBytes, bytesFrom_of_read_some hb, decode, refuse]

theorem fetch_of_nothing (ht : termAt s.program s.pc = none) (hb : s.mem.read s.pc = none) :
    fetch s = if s.pc = s.program.endPc then .fault .endOfRun else .refused (.noInstruction s.pc.toNat) := by
  simp only [fetch, ht, bytesFrom_of_read_none hb, raise, refuse]

/-- Settles O38: `fetch` answers the term that stands at `pc` and `step` hands it to `exec`. -/
theorem stepRunsTheTermAtPc : Obligations.StepRunsTheTermAtPc := by
  intro c s i ht hw
  have hf : fetch s = .next i := by rw [fetch_of_termAt ht, checkTerm, if_pos hw]
  exact step_of_fetch_next hf

theorem step_of_illFormed (ht : termAt s.program s.pc = some i) (hw : i.wellFormed c = false) :
    step s.state = .refused .illFormedTerm := by
  refine step_of_fetch_refused ?_
  rw [fetch_of_termAt ht, checkTerm, hw]
  rfl

/-- Settles O4: `decode` has one answer, and with no term at `pc` the bytes there go to it. -/
theorem byteDecoderRefusesEveryWord : Obligations.ByteDecoderRefusesEveryWord := by
  refine ⟨fun _ => rfl, fun _ _ => rfl, fun c s ht hb => ?_⟩
  obtain ⟨b, hb⟩ := Option.isSome_iff_exists.1 hb
  exact step_of_fetch_refused (fetch_of_byte ht hb)

/-- Settles O40: with no term and no byte at `pc`, `fetch` asks only whether `pc` is the end of the program. -/
theorem stepStopsWhereNothingStands : Obligations.StepStopsWhereNothingStands := by
  intro c s ht hb
  have hf := fetch_of_nothing ht hb
  exact ⟨fun hend => step_of_fetch_fault (by rw [hf, if_pos hend]),
    fun hend => step_of_fetch_refused (by rw [hf, if_neg hend])⟩

/-! ## The choice of a form (R156) -/

theorem fits12_mgr_iff {n : BitVec 4} {xx : BitVec 8} : fits12 (mgr n xx) = true ↔ n = 0#4 := by
  have hx := xx.isLt
  rw [fits12_iff_toNat_le, mgr_toNat, ← BitVec.toNat_inj, BitVec.toNat_ofNat]
  omega

theorem baseIds_fits12 : baseIds.all fits12 = true := by decide

theorem hlSsrget_eq_ssrget_then_advance {id : SsrId} (h : fits12 id = true) (rd : Nat) (s : StateOf c) :
    exec (.hlSsrget rd id) s.state =
      chain (exec (.ssrget rd id) s.state) (fun t => .next (t.body.advance 2).state) := by
  rw [exec_hlSsrget, exec_ssrget_of_fits12 h, readToGpr_add rd id 4 2, chain_chain, chain_chain]
  rfl

theorem hlSsrset_eq_ssrset_then_advance {id : SsrId} (h : fits12 id = true) (rs : Nat) (s : StateOf c) :
    exec (.hlSsrset id rs) s.state =
      chain (exec (.ssrset id rs) s.state) (fun t => .next (t.body.advance 2).state) := by
  rw [exec_hlSsrset, exec_ssrset_of_fits12 h, writeFromGpr_add id rs 4 2, chain_chain, chain_chain]
  rfl

/-- Settles O5: the check of well-formedness asks of a 32-bit form that its identifier fits and of every form that its
registers exist; the two lengths differ by 2 and the moves do not. -/
theorem formChoice : Obligations.FormChoice := by
  refine ⟨fun id => fits12_iff_toNat_le, fun c rd rs id hrd hrs => ?_, fun c i rd hd hrd => ?_,
    fun c rd rs id hrs => ?_, List.all_eq_true.1 baseIds_fits12, fun n xx => fits12_mgr_iff, fun rd rs id s h => ?_,
    fun c s i ht hw => step_of_illFormed ht hw⟩
  · simp [Instr.wellFormed, hrd, hrs]
  · rw [Bool.eq_false_iff]
    intro hw
    simp [hasGpr_of_destOf hd hw] at hrd
  · simp [Instr.wellFormed, hrs]
  · exact ⟨hlSsrget_eq_ssrget_then_advance h rd s.body, hlSsrset_eq_ssrset_then_advance h rs s.body⟩

end Sys2Proof
end

section

namespace Sys2Proof

open Machine Claims

/-! ## Consecutive addresses -/

variable {xlen : Nat} {a : Word xlen}

/-- Two offsets below the size of the address space lead to different addresses. -/
theorem add_ofNat_inj {j k : Nat} (hj : j < 2 ^ xlen) (hk : k < 2 ^ xlen) :
    a + BitVec.ofNat xlen j = a + BitVec.ofNat xlen k ↔ j = k := by
  rw [BitVec.add_right_inj, ← BitVec.toNat_inj, BitVec.toNat_ofNat, BitVec.toNat_ofNat, Nat.mod_eq_of_lt hj,
    Nat.mod_eq_of_lt hk]

theorem add_ofNat_add (a : Word xlen) (j k : Nat) :
    a + BitVec.ofNat xlen j + BitVec.ofNat xlen k = a + BitVec.ofNat xlen (j + k) := by
  rw [BitVec.ofNat_add, BitVec.add_assoc]

theorem Instr.lengthBytes_pos (i : Instr) : 0 < i.lengthBytes := by
  cases i <;> exact Nat.succ_pos _

theorem sumLengths_append (l₁ l₂ : List Instr) : sumLengths (l₁ ++ l₂) = sumLengths l₁ + sumLengths l₂ := by
  induction l₁ with
  | nil => simp [sumLengths]
  | cons i rest ih => simp [sumLengths, ih, Nat.add_assoc]

theorem placed_append (a : Word xlen) (l₁ l₂ : List Instr) :
    placed a (l₁ ++ l₂) = placed a l₁ ++ placed (a + BitVec.ofNat xlen (sumLengths l₁)) l₂ := by
  induction l₁ generalizing a with
  | nil => simp [placed, sumLengths]
  | cons i rest ih => simp only [List.cons_append, placed, ih, sumLengths, add_ofNat_add]

theorem endFrom_eq (a : Word xlen) (l : List Instr) : endFrom a l = a + BitVec.ofNat xlen (sumLengths l) := by
  induction l generalizing a with
  | nil => simp [endFrom, sumLengths]
  | cons i rest ih => simp only [endFrom, ih, sumLengths, add_ofNat_add]

/-- Every term of a list stands before the end of the list, since each has some length. -/
theorem exists_offset_of_mem_placed {l : List Instr} {e : Word xlen × Instr} (h : e ∈ placed a l) :
    ∃ k < sumLengths l, e.1 = a + BitVec.ofNat xlen k := by
  induction l generalizing a with
  | nil => cases h
  | cons i rest ih =>
    obtain rfl | h := List.mem_cons.1 h
    · exact ⟨0, Nat.add_pos_left i.lengthBytes_pos _, by simp⟩
    · obtain ⟨k, hk, he⟩ := ih h
      exact ⟨i.lengthBytes + k, Nat.add_lt_add_left hk _, by rw [he, add_ofNat_add]⟩

/-- No term of a list stands at its end or beyond, while the addresses do not come round. -/
theorem find?_placed_eq_none {l : List Instr} {n : Nat} (hl : sumLengths l ≤ n) (hn : n < 2 ^ xlen) :
    (placed a l).find? (fun e => e.1 == a + BitVec.ofNat xlen n) = none := by
  rw [List.find?_eq_none]
  intro e he heq
  obtain ⟨k, hk, hek⟩ := exists_offset_of_mem_placed he
  have hkn : k = n := (add_ofNat_inj (by omega) hn).1 (hek.symm.trans (eq_of_beq heq))
  omega

/-- Settles O39: the terms before stand at other addresses, and the list of the placed terms goes on at the sum of
their lengths with the term itself. -/
theorem programTermsStandConsecutively : Obligations.ProgramTermsStandConsecutively := by
  intro c p before after i hp hlt
  have hsum : sumLengths p.terms = sumLengths before + (i.lengthBytes + sumLengths after) := by
    rw [hp, sumLengths_append, sumLengths]
  have hend : p.endPc = p.base + BitVec.ofNat c.xlen (sumLengths p.terms) := endFrom_eq _ _
  refine ⟨?_, hend, ?_⟩
  · rw [termAt, hp, placed_append, List.find?_append, find?_placed_eq_none le_rfl (by omega), Option.none_or, placed,
      List.find?_cons_of_pos (by simp)]
    rfl
  · rw [termAt, hend, find?_placed_eq_none le_rfl hlt]
    rfl

/-! ## Placed bytes -/

theorem read_writeBytes_of_ne {m : Memory} {a' : Word xlen} {bs : List Byte}
    (h : ∀ k < bs.length, a' ≠ a + BitVec.ofNat xlen k) : (m.writeBytes a bs).read a' = m.read a' := by
  induction bs generalizing m a with
  | nil => rfl
  | cons b bs ih =>
    have hrest : ∀ k < bs.length, a' ≠ a + 1 + BitVec.ofNat xlen k := by
      intro k hk
      rw [show a + 1 = a + BitVec.ofNat xlen 1 from rfl, add_ofNat_add, Nat.add_comm 1 k]
      exact h (k + 1) (Nat.succ_lt_succ hk)
    have hne : a' ≠ a := by simpa using h 0 (Nat.succ_pos _)
    rw [Memory.writeBytes, ih hrest, Memory.read_write_other m b hne]

/-- Fetching no more bytes than were placed gives the first of them. -/
theorem bytesFrom_writeBytes {m : Memory} {bs : List Byte} (hbs : bs.length < 2 ^ xlen) {n : Nat}
    (hn : n ≤ bs.length) : (m.writeBytes a bs).bytesFrom n a = bs.take n := by
  induction bs generalizing m a n with
  | nil => obtain rfl : n = 0 := Nat.le_zero.1 hn; rfl
  | cons b bs ih =>
    cases n with
    | zero => rfl
    | succ n =>
      rw [List.length_cons] at hbs hn
      have hne : ∀ k < bs.length, a ≠ a + 1 + BitVec.ofNat xlen k := by
        intro k hk heq
        rw [show a + 1 = a + BitVec.ofNat xlen 1 from rfl, add_ofNat_add] at heq
        have h0 : 0 = 1 + k := (add_ofNat_inj (a := a) (by omega) (by omega)).1 (by simpa using heq)
        omega
      have hread : (m.writeBytes a (b :: bs)).read a = some b := by
        rw [Memory.writeBytes, read_writeBytes_of_ne hne, Memory.read_write_same]
      rw [bytesFrom_of_read_some hread, Memory.writeBytes, ih (by omega) (by omega), List.take_succ_cons]

/-- Settles O41: the first six bytes, or all of fewer, are no more than were placed. -/
theorem placedBytesAreFetched : Obligations.PlacedBytesAreFetched := by
  intro xlen m a bs hbs
  rw [bytesFrom_writeBytes hbs (min_le_left ..), Nat.min_comm, ← List.take_take, List.take_length]

end Sys2Proof
end

section

namespace Sys2Proof

open Machine Claims

/-! ## The register list by register number -/

/-- The register number of a row outside the base table. -/
def Machine.SsrRow.number (r : SsrRow) : Option (BitVec 8) :=
  match r.place with
  | .base _ => none
  | .eachAcr xx => some xx
  | .acr1Only xx => some xx

/-- Whether the row stands for family 1 only (R69). -/
def Machine.SsrRow.onlyAcr1 (r : SsrRow) : Bool :=
  match r.place with
  | .acr1Only _ => true
  | _ => false

/-- Whether family `n` has the row's register. -/
def Machine.SsrRow.inFamily (n : BitVec 4) (r : SsrRow) : Bool := !r.onlyAcr1 || n == 1#4

/-- The row outside the base table with a given register number, if there is one: the register lookup of a family
without the question whether the family has the register (`findRow_mgr_eq_rowNumbered`). -/
def rowNumbered (xx : BitVec 8) : Option SsrRow := familyRows.find? (fun r => r.number == some xx)

theorem familyRows_number_nodup : (familyRows.map SsrRow.number).Nodup := by decide

theorem isAt_eq_inFamily_and_number {r : SsrRow} (hr : r ∈ familyRows) (n : BitVec 4) (xx : BitVec 8) :
    r.isAt n xx = (r.inFamily n && r.number == some xx) := by
  have hb := familyRows_place hr
  unfold SsrRow.isAt SsrRow.inFamily SsrRow.onlyAcr1 SsrRow.number
  cases hp : r.place with
  | base k => exact absurd hp (hb k)
  | eachAcr y => simp [Bool.beq_comm]
  | acr1Only y => simp [Bool.beq_comm]

/-- Where no two members share a key, a further condition on the member with a key can be asked after it is found. -/
theorem find?_and_key {α β : Type} [BEq β] [LawfulBEq β] {key : α → β} {l : List α} (hl : (l.map key).Nodup)
    (p : α → Bool) (b : β) : l.find? (fun a => p a && key a == b) = (l.find? (fun a => key a == b)).filter p := by
  induction l with
  | nil => rfl
  | cons a rest ih =>
    rw [List.map_cons, List.nodup_cons] at hl
    obtain ⟨ha, hl⟩ := hl
    by_cases hk : key a = b
    · have hrest : rest.find? (fun x => p x && key x == b) = none := by
        rw [List.find?_eq_none]
        intro x hx hpx
        simp only [Bool.and_eq_true, beq_iff_eq] at hpx
        exact ha (List.mem_map.2 ⟨x, hx, hpx.2.trans hk.symm⟩)
      cases hp : p a <;> simp [Option.filter_some, hk, hp, hrest]
    · simp [hk, ih hl]

/-- The register that `mgr(n, xx)` names is the row numbered `xx`, where the family exists and has it (R33, R69). -/
theorem findRow_mgr_eq_rowNumbered (nacr : Nat) (n : BitVec 4) (xx : BitVec 8) : findRow nacr (mgr n xx) =
    if nacr ≤ n.toNat then none else (rowNumbered xx).filter (SsrRow.inFamily n) := by
  rw [findRow_mgr, rowNumbered, List.find?_congr fun r hr => isAt_eq_inFamily_and_number hr n xx,
    find?_and_key familyRows_number_nodup]

/-! ## Defined and undefined identifiers -/

/-- The register numbers of R69, which family 1 alone has. -/
def translationXX (k : Nat) : Bool := decide (0x10 ≤ k) && decide (k ≤ 0x16)

/-- The rows outside the base table have the numbers of R33's sets, and those of R69 are the rows of family 1 only. -/
theorem familyRows_numbers : familyRows.map (fun r => (r.number, r.onlyAcr1)) =
    ((List.range 256).filter (fun k => commonXX k || translationXX k)).map
      (fun k => (some (BitVec.ofNat 8 k), translationXX k)) := by decide

theorem exists_familyRow_iff {xx : BitVec 8} {b : Bool} :
    (∃ r ∈ familyRows, r.number = some xx ∧ r.onlyAcr1 = b) ↔
      (commonXX xx.toNat = true ∨ translationXX xx.toNat = true) ∧ translationXX xx.toNat = b := by
  have hmem := congrArg ((some xx, b) ∈ ·) familyRows_numbers
  simp only [List.mem_map, Prod.mk.injEq, List.mem_filter, List.mem_range, Bool.or_eq_true, Option.some.injEq,
    eq_iff_iff] at hmem
  rw [hmem]
  refine ⟨?_, fun ⟨h, hb⟩ => ⟨xx.toNat, ⟨xx.isLt, h⟩, by simp, hb⟩⟩
  rintro ⟨k, ⟨hk, h⟩, rfl, hb⟩
  rw [BitVec.toNat_ofNat, Nat.mod_eq_of_lt hk]
  exact ⟨h, hb⟩

theorem translationXX_of_commonXX {k : Nat} (h : commonXX k = true) : translationXX k = false := by
  simp only [commonXX, translationXX, Bool.or_eq_true, Bool.and_eq_true, decide_eq_true_eq, beq_iff_eq,
    Bool.and_eq_false_iff, decide_eq_false_iff_not] at h ⊢
  omega

/-- A family has the register numbers of `CommonXX`, and family 1 those of R69 (R33). -/
theorem findRow_mgr_isSome (nacr : Nat) (n : BitVec 4) (xx : BitVec 8) :
    (findRow nacr (mgr n xx)).isSome = (decide (n.toNat < nacr) && (commonXX xx.toNat || (n == 1#4 && translationXX xx.toNat))) := by
  rw [findRow_mgr]
  split_ifs with hn
  · simp [Nat.not_lt.2 hn]
  · have hfound : familyRows.any (fun r => r.isAt n xx) = true ↔
        ∃ b, (∃ r ∈ familyRows, r.number = some xx ∧ r.onlyAcr1 = b) ∧ (!b || n == 1#4) = true := by
      rw [List.any_eq_true]
      refine ⟨fun ⟨r, hr, hat⟩ => ?_, fun ⟨b, ⟨r, hr, hnum, hb⟩, hf⟩ => ⟨r, hr, ?_⟩⟩
      · rw [isAt_eq_inFamily_and_number hr, Bool.and_eq_true, beq_iff_eq] at hat
        exact ⟨_, ⟨r, hr, hat.2, rfl⟩, hat.1⟩
      · rw [isAt_eq_inFamily_and_number hr, SsrRow.inFamily, hb, hf, hnum, beq_self_eq_true, Bool.true_and]
    have hcommon := translationXX_of_commonXX (k := xx.toNat)
    rw [List.isSome_find?, Bool.eq_iff_iff, hfound]
    simp only [exists_familyRow_iff, Nat.not_le.1 hn, decide_true, Bool.true_and]
    cases hc : commonXX xx.toNat <;> cases ht : translationXX xx.toNat <;> simp_all

theorem baseRows_place_eq : baseRows.map SsrRow.place = baseIds.map Place.base := by decide

theorem findRow_base_isSome {id : SsrId} (h : isManager id = false) (nacr : Nat) :
    (findRow nacr id).isSome = baseIds.contains id := by
  have hany := congrArg (List.any · (fun p => p.names id)) baseRows_place_eq
  rw [findRow_base h, List.isSome_find?, List.contains_eq_any_beq]
  simpa only [List.any_map, Function.comp_def, Place.names] using hany

/-- No base identifier has anything in bits 23:16 or is in a manager family. -/
theorem baseIds_bits : ∀ id : SsrId, baseIds.contains id = true →
    id.extractLsb' 16 8 = 0#8 ∧ id.extractLsb' 8 4 ≠ 0xF#4 := by
  intro id h
  have hall : baseIds.all (fun id => id.extractLsb' 16 8 == 0#8 && id.extractLsb' 8 4 != 0xF#4) = true := by decide
  simpa using List.all_eq_true.1 hall id (List.contains_iff_mem.1 h)

/-- R33's sets, by whether the identifier is a manager one. -/
theorem definedR33_eq (nacr : Nat) (id : SsrId) : definedR33 nacr id =
    if isManager id then decide ((familyOf id).toNat < nacr) &&
      (commonXX (numberOf id).toNat || (familyOf id == 1#4 && translationXX (numberOf id).toNat))
    else baseIds.contains id := by
  have hbits := baseIds_bits id
  have hfam : (familyOf id == 1#4) = ((familyOf id).toNat == 1) := by
    rw [Bool.eq_iff_iff, beq_iff_eq, beq_iff_eq, ← BitVec.toNat_inj]; rfl
  have hdef : definedR33 nacr id = (id.extractLsb' 16 8 == 0#8 && (baseIds.contains id ||
      (id.extractLsb' 8 4 == 0xF#4 && decide ((familyOf id).toNat < nacr) &&
        (commonXX (numberOf id).toNat || (familyOf id == 1#4 && translationXX (numberOf id).toNat))))) := by
    rw [hfam, translationXX, ← Bool.and_assoc]; rfl
  rw [hdef, isManager]
  -- A truth table over the three tests; `hbits` rules out a base identifier that fails the second or passes the third.
  cases hb : baseIds.contains id <;> cases ht : id.extractLsb' 16 8 == 0#8 <;>
    cases hm : id.extractLsb' 8 4 == 0xF#4 <;> simp_all

/-- Settles O7: both sides split by whether the identifier is a manager one; `mgr` of its parts is looked up by number,
any other identifier in the base table. -/
theorem definedIdentifiers : Obligations.DefinedIdentifiers := by
  intro nacr id
  rw [definedR33_eq]
  split_ifs with hm
  · conv_lhs => rw [eq_mgr hm]
    exact findRow_mgr_isSome nacr _ _
  · exact findRow_base_isSome (by simpa using hm) nacr

/-- The numbers R88 lists as skipped are those of no set of R33. -/
theorem skippedXX_eq {k : Nat} (n : Nat) (hk : k < 256) :
    skippedXX n k = !(commonXX k || (n == 1 && translationXX k)) := by
  rw [Bool.eq_iff_iff]
  simp only [skippedXX, commonXX, translationXX, Bool.not_eq_true', Bool.or_eq_false_iff, Bool.and_eq_false_iff,
    Bool.or_eq_true, Bool.and_eq_true, decide_eq_true_eq, decide_eq_false_iff_not, beq_iff_eq, bne_iff_ne,
    beq_eq_false_iff_ne]
  omega

/-- R88's list is the complement of R33's sets. -/
theorem undefinedR88_eq (nacr : Nat) (id : SsrId) : undefinedR88 nacr id = !definedR33 nacr id := by
  have hbits := baseIds_bits id
  have hskip := skippedXX_eq (id.extractLsb' 12 4).toNat (id.extractLsb' 0 8).isLt
  have hle : decide (nacr ≤ (id.extractLsb' 12 4).toNat) = !decide ((id.extractLsb' 12 4).toNat < nacr) := by
    simp [← decide_not]
  simp only [undefinedR88, definedR33, hskip, hle, translationXX, Bool.and_assoc]
  -- A truth table over the three tests; `hbits` rules out a base identifier that fails the second or passes the third.
  cases hb : baseIds.contains id <;> cases ht : id.extractLsb' 16 8 == 0#8 <;>
    cases hm : id.extractLsb' 8 4 == 0xF#4 <;> simp_all

/-- Settles O8: an identifier outside R33's sets has no row, and every access and every instruction begins with the
lookup. -/
theorem undefinedIdentifierFaults : Obligations.UndefinedIdentifierFaults := by
  intro c s id
  refine ⟨by simp [undefinedR88_eq], fun h => ?_⟩
  have hnone : findRow c.nacr id = none := by
    rw [← Option.not_isSome_iff_eq_none, definedIdentifiers, Bool.not_eq_true, ← Bool.not_eq_true', ← undefinedR88_eq, h]
  have hread : ssrRead id s = .fault (.ssrUndefined id) := ssrRead_undefined hnone
  have hwrite : ∀ v, ssrWrite id v s = .fault (.ssrUndefined id) := fun v => ssrWrite_undefined hnone
  refine ⟨hread, hwrite, fun rd => (exec_reads_fault hread rd).1, fun rs => (exec_writes_fault hwrite rs).1,
    fun rd => (exec_reads_fault hread rd).2.1, fun hfit rd rs => ⟨(exec_reads_fault hread rd).2.2 hfit,
    (exec_writes_fault hwrite rs).2 hfit, exec_swap_fault hfit hread rd rs⟩⟩

end Sys2Proof
end

section

namespace Sys2Proof

open Machine Claims

/-! ## The registers by class -/

/-- The identifier names the row's register on every machine that has its family. -/
def NamesRow (id : SsrId) (r : SsrRow) : Prop :=
  ∀ nacr, (isManager id = true → (familyOf id).toNat < nacr) → findRow nacr id = some r

theorem namesRow_base {id : SsrId} {r : SsrRow} (hm : isManager id = false)
    (h : baseRows.find? (fun r => r.place.names id) = some r) : NamesRow id r :=
  fun _ _ => (findRow_base hm).trans h

theorem namesRow_manager {id : SsrId} {r : SsrRow} (hm : isManager id = true) (h : rowNumbered (numberOf id) = some r)
    (hn : r.inFamily (familyOf id) = true) : NamesRow id r := by
  intro nacr hfam
  rw [eq_mgr hm, findRow_mgr_eq_rowNumbered, if_neg (Nat.not_le.2 (hfam hm)), h, Option.filter_some_pos hn]

theorem namesRow_mgr {n : BitVec 4} {xx : BitVec 8} {r : SsrRow} (h : rowNumbered xx = some r)
    (hn : r.inFamily n = true) : NamesRow (mgr n xx) r :=
  namesRow_manager (isManager_mgr n xx) (by rwa [numberOf_mgr]) (by rwa [familyOf_mgr])

section
variable {id : SsrId} {r : SsrRow} {name : String} {k : ConstName} (h : NamesRow id r) (hname : r.name = name)
include h hname

theorem scratchAt_of_namesRow (hc : r.cls = .s) : ScratchAt name id := by
  intro c s v hfam hm
  have hr := h c.nacr hfam
  have ha : r.access = .rw := (findRow_class_access hr).1 (.inl hc)
  refine ⟨⟨r, hr, hname, ha, hc⟩, ?_, ssrWrite_of_stored hr hm (.inl hc)⟩
  rw [ssrRead_of_mayReach hr hm (by simp [ha]), readByClass, hc]

theorem constantAt_of_namesRow (hc : r.cls = .k k) : ConstantAt name k id := by
  intro c s v hfam hm
  have hr := h c.nacr hfam
  have ha : r.access = .ro := (findRow_class_access hr).2.2 (by simp [hc]) (by simp [hc]) (by simp [hc])
  refine ⟨⟨r, hr, hname, ha, hc⟩, ?_, ssrWrite_readOnly hr hm ha⟩
  rw [ssrRead_of_mayReach hr hm (by simp [ha]), readByClass, hc]

theorem counterAt_of_namesRow (hc : r.cls = .t) : CounterAt name id := by
  intro c s v hfam hm
  have hr := h c.nacr hfam
  have ha : r.access = .ro := (findRow_class_access hr).2.2 (by simp [hc]) (by simp [hc]) (by simp [hc])
  refine ⟨⟨r, hr, hname, ha, hc⟩, ⟨(draw s).1, ?_⟩, ssrWrite_readOnly hr hm ha⟩
  rw [ssrRead_of_mayReach hr hm (by simp [ha]), readByClass, hc]
  rfl

theorem latentAt_of_namesRow (hc : r.cls = .l) : LatentAt name id := by
  intro c s v hfam hm
  have hr := h c.nacr hfam
  have ha : r.access = .rw := (findRow_class_access hr).1 (.inr hc)
  have hread : ssrRead id s = .next (if id ∈ c.stableExtra then (s.storedSsr id, s) else draw s) := by
    rw [ssrRead_of_mayReach hr hm (by simp [ha]), readByClass, hc]
  refine ⟨⟨r, hr, hname, ha, hc⟩, ?_, ssrWrite_of_stored hr hm (.inr hc)⟩
  split_ifs with hid
  · rw [hread, if_pos hid]
  · exact ⟨(draw s).1, by rw [hread, if_neg hid]; rfl⟩

theorem liveControlAt_of_namesRow (ha : r.access = .rw) (hc : r.cls = .x) : LiveControlAt name id := by
  intro c s v hfam hm
  have hr := h c.nacr hfam
  have hread : ssrRead id s = .next (if id = cstateId then drawCstate s else draw s) := by
    rw [ssrRead_of_mayReach hr hm (by simp [ha]), readByClass, hc]
  refine ⟨⟨r, hr, hname, ha, hc⟩, ⟨(if id = cstateId then drawCstate s else draw s).1, ?_⟩,
    ssrWrite_liveControl hr hm hc⟩
  rw [hread]
  split_ifs <;> rfl

end

theorem storedSsr_storeSsr_mgr_other {c : Config} (s : StateOf c) (v : Word c.xlen) (n : BitVec 4) {xx yy : BitVec 8}
    (h : yy ≠ xx) : (s.storeSsr (mgr n xx) v).storedSsr (mgr n yy) = s.storedSsr (mgr n yy) :=
  storedSsr_storeSsr_other s v fun heq => h (mgr_inj.1 heq).2

/-- Settles O10: the four rows are of class S, and the two of a family have different numbers. -/
theorem scratchRegisters : Obligations.ScratchRegisters :=
  ⟨scratchAt_of_namesRow (namesRow_base rfl rfl) rfl rfl, scratchAt_of_namesRow (namesRow_base rfl rfl) rfl rfl,
    fun _ => ⟨scratchAt_of_namesRow (namesRow_mgr rfl rfl) rfl rfl, scratchAt_of_namesRow (namesRow_mgr rfl rfl) rfl rfl⟩,
    fun _ s v n => ⟨storedSsr_storeSsr_mgr_other s v n (by decide), storedSsr_storeSsr_mgr_other s v n (by decide)⟩⟩

/-- Settles O11: the rows are of class K, each of its own constant. -/
theorem constantRegisters : Obligations.ConstantRegisters :=
  ⟨constantAt_of_namesRow (namesRow_base rfl rfl) rfl rfl, constantAt_of_namesRow (namesRow_base rfl rfl) rfl rfl,
    constantAt_of_namesRow (namesRow_base rfl rfl) rfl rfl, constantAt_of_namesRow (namesRow_base rfl rfl) rfl rfl,
    fun _ => constantAt_of_namesRow (namesRow_mgr rfl rfl) rfl rfl, fun _ _ => ⟨rfl, rfl, rfl, rfl⟩,
    fun c n => by simp only [constValue, familyOf_mgr]⟩

/-- Settles O12: the three rows are of class T. -/
theorem counterRegisters : Obligations.CounterRegisters :=
  ⟨counterAt_of_namesRow (namesRow_base rfl rfl) rfl rfl, counterAt_of_namesRow (namesRow_base rfl rfl) rfl rfl,
    fun _ => counterAt_of_namesRow (namesRow_mgr rfl rfl) rfl rfl⟩

/-- Settles O13: the six rows are of class L. -/
theorem loopRegistersAreLatent : Obligations.LoopRegistersAreLatent := by
  refine ⟨?_, ?_, ?_, ?_, ?_, ?_⟩ <;> exact latentAt_of_namesRow (namesRow_base rfl rfl) rfl rfl

/-- Settles O14: the four rows are of class L. -/
theorem trapRegistersAreLatent : Obligations.TrapRegistersAreLatent := by
  refine fun n => ⟨?_, ?_, ?_, ?_⟩ <;> exact latentAt_of_namesRow (namesRow_mgr rfl rfl) rfl rfl

/-- Every number of the EBARG group has a class L row that stands for each family (R87). -/
theorem rowNumbered_ebarg : ∀ k < 0x51, 0x40 ≤ k →
    (rowNumbered (BitVec.ofNat 8 k)).any (fun r => !r.onlyAcr1 && r.cls == .l) = true := by decide

/-- No number of the two gaps around the EBARG group is one of R33's. -/
theorem not_commonXX_of_ebargGap {k : Nat} (h1 : 0x22 ≤ k) (h2 : k ≤ 0x7F) (h : k < 0x40 ∨ 0x50 < k) :
    commonXX k = false ∧ translationXX k = false := by
  simp only [commonXX, translationXX, Bool.or_eq_false_iff, Bool.and_eq_false_iff, decide_eq_false_iff_not,
    beq_eq_false_iff_ne]
  omega

/-- Settles O15: the group's numbers are looked up one by one; a gap number is not defined. -/
theorem ebargWordsAreLatent : Obligations.EbargWordsAreLatent := by
  refine ⟨fun n xx h1 h2 => ?_, fun nacr n xx h1 h2 h => ?_, fun n => ⟨?_, ?_, ?_, ?_⟩⟩
  · have hrow := rowNumbered_ebarg xx.toNat (by omega) h1
    rw [BitVec.ofNat_toNat, BitVec.setWidth_eq, Option.any_eq_true] at hrow
    obtain ⟨r, hr, hcls⟩ := hrow
    simp only [Bool.and_eq_true, beq_iff_eq] at hcls
    exact ⟨r.name, latentAt_of_namesRow (namesRow_mgr hr (by simp [SsrRow.inFamily, hcls.1])) rfl hcls.2⟩
  · obtain ⟨hc, ht⟩ := not_commonXX_of_ebargGap h1 h2 h
    rw [← Option.not_isSome_iff_eq_none, findRow_mgr_isSome, hc, ht]
    simp
  all_goals exact latentAt_of_namesRow (namesRow_mgr rfl rfl) rfl rfl

/-- Settles O16: the five rows are read-write and of class X. -/
theorem interruptControlRefusesWrites : Obligations.InterruptControlRefusesWrites := by
  refine ⟨liveControlAt_of_namesRow (namesRow_base rfl rfl) rfl rfl rfl, fun n => ⟨?_, ?_, ?_, ?_⟩⟩ <;>
    exact liveControlAt_of_namesRow (namesRow_mgr rfl rfl) rfl rfl rfl

/-- Settles O17: the seven identifiers are those of family 1, whose rows are read-write and of class X. -/
theorem translationControlRefusesWrites : Obligations.TranslationControlRefusesWrites := by
  refine ⟨?_, ?_, ?_, ?_, ?_, ?_, ?_⟩ <;>
    exact liveControlAt_of_namesRow (namesRow_manager rfl rfl rfl) rfl rfl rfl

/-- Every number of a debug control or value register has a read-write class X row that stands for each family
(R119). -/
theorem rowNumbered_debug : ∀ j < 0x28, (j ≤ 0x07 ∨ 0x10 ≤ j ∧ j ≤ 0x11 ∨ 0x20 ≤ j) →
    (rowNumbered (BitVec.ofNat 8 (0x90 + j))).any (fun r => !r.onlyAcr1 && r.access == .rw && r.cls == .x) = true := by
  decide

/-- Settles O18: the numbers are looked up one by one. -/
theorem debugControlRefusesWrites : Obligations.DebugControlRefusesWrites := by
  refine fun n => ⟨fun xx h => ?_, ?_, ?_, ?_, ?_, ?_, ?_⟩
  · have hrow := rowNumbered_debug (xx.toNat - 0x90) (by omega) (by omega)
    rw [show 0x90 + (xx.toNat - 0x90) = xx.toNat by omega, BitVec.ofNat_toNat, BitVec.setWidth_eq,
      Option.any_eq_true] at hrow
    obtain ⟨r, hr, hcls⟩ := hrow
    simp only [Bool.and_eq_true, beq_iff_eq] at hcls
    obtain ⟨⟨heach, ha⟩, hc⟩ := hcls
    exact ⟨r.name, liveControlAt_of_namesRow (namesRow_mgr hr (by simp [SsrRow.inFamily, heach])) rfl ha hc⟩
  all_goals exact liveControlAt_of_namesRow (namesRow_mgr rfl rfl) rfl rfl rfl

/-! ## Family 1's own registers, and the write-only one -/

/-- The rows numbered as R69 has it are of family 1 only, read-write and of class X. -/
theorem rowNumbered_translation : ∀ k < 0x17, 0x10 ≤ k →
    (rowNumbered (BitVec.ofNat 8 k)).any (fun r => r.onlyAcr1 && r.access == .rw && r.cls == .x) = true := by decide

/-- Settles O9: the rows of these numbers are family 1's own, so no other family's identifier is defined. -/
theorem translationRegistersOnlyInFamilyOne : Obligations.TranslationRegistersOnlyInFamilyOne := by
  intro c s n xx hnacr h1 h2
  have hrow := rowNumbered_translation xx.toNat (by omega) h1
  rw [BitVec.ofNat_toNat, BitVec.setWidth_eq, Option.any_eq_true] at hrow
  obtain ⟨r, hr, hcls⟩ := hrow
  simp only [Bool.and_eq_true, beq_iff_eq] at hcls
  obtain ⟨⟨honly, ha⟩, hc⟩ := hcls
  refine ⟨?_, fun hn => ?_⟩
  · rintro rfl
    exact ⟨r, namesRow_mgr hr (by simp [SsrRow.inFamily]) c.nacr fun _ => by rw [familyOf_mgr]; exact hnacr, ha, hc,
      mgr_toNat 1#4 xx⟩
  · have hnone : findRow c.nacr (mgr n xx) = none := by
      rw [findRow_mgr_eq_rowNumbered, hr, Option.filter_some_neg (by simp [SsrRow.inFamily, honly, hn]), ite_self]
    exact ⟨ssrRead_undefined hnone, fun v => ssrWrite_undefined hnone⟩

/-- `EOIEI_ACRn` is the only write-only row (R23, R59). -/
theorem ssrTable_writeOnly : ∀ r ∈ ssrTable, r.access = .wo → r.place = .eachAcr 0x0A#8 ∧ r.cls = .x := by decide

/-- The row of `EOIEI_ACRn` (R59). -/
def eoieiRow : SsrRow := ⟨.eachAcr 0x0A#8, "EOIEI_ACRn", .wo, .x⟩

theorem namesRow_eoiei (n : BitVec 4) : NamesRow (mgr n 0x0A#8) eoieiRow := namesRow_mgr rfl rfl

theorem access_eq_writeOnly_iff {nacr : Nat} {id : SsrId} {r : SsrRow} (hr : findRow nacr id = some r) :
    r.access = .wo ↔ isManager id = true ∧ numberOf id = 0x0A#8 := by
  refine ⟨fun ha => ?_, fun ⟨hm, hx⟩ => ?_⟩
  · obtain ⟨hmem, hnames⟩ := findRow_mem hr
    rw [(ssrTable_writeOnly r hmem ha).1] at hnames
    simpa [Place.names] using hnames
  · have heoiei := namesRow_eoiei (familyOf id) nacr fun _ => by rw [familyOf_mgr]; exact findRow_family hr hm
    rw [← hx, ← eq_mgr hm, hr, Option.some.injEq] at heoiei
    rw [heoiei]; rfl

/-- Settles O19: the number `0x0A` is the write-only row's; its reads stop by the access class, its writes by the
behaviour class. -/
theorem endOfInterruptRegister : Obligations.EndOfInterruptRegister := by
  refine ⟨fun nacr id r hr => ⟨access_eq_writeOnly_iff hr, fun ha => (ssrTable_writeOnly r (findRow_mem hr).1 ha).2⟩,
    fun c s n hn hacr => ?_⟩
  have hr : findRow c.nacr (mgr n 0x0A#8) = some eoieiRow := namesRow_eoiei n c.nacr fun _ => by rwa [familyOf_mgr]
  have hm : MayReach s (mgr n 0x0A#8) := fun _ => hacr
  have hread := ssrRead_writeOnly hr hm rfl
  exact ⟨hread, fun v => ssrWrite_liveControl hr hm rfl,
    fun h0 rd rs => exec_swap_fault (fits12_mgr_iff.2 h0) hread rd rs⟩

end Sys2Proof
end

section

namespace Sys2Proof

open Machine Claims

/-! ## The active ACR -/

/-- The row of `CSTATE` (R37). -/
def cstateRow : SsrRow := ⟨.base cstateId, "CSTATE", .rw, .x⟩

theorem findRow_cstate (nacr : Nat) : findRow nacr cstateId = some cstateRow :=
  (findRow_base (by decide)).trans rfl

theorem mayReach_base {c : Config} {s : StateOf c} {id : SsrId} (h : isManager id = false) : MayReach s id :=
  fun hm => by simp [h] at hm

/-- `CSTATE` is a base register, so a read of it is a draw of `CSTATE` from every ACR (R25, R28). -/
theorem ssrRead_cstate {c : Config} (s : StateOf c) : ssrRead cstateId s = .next (drawCstate s) := by
  rw [ssrRead_of_mayReach (findRow_cstate c.nacr) (mayReach_base (by decide)) (by decide), readByClass]
  rfl

theorem acrOf_drawCstate {c : Config} {s : StateOf c} (hc : c.HoldsEveryAcr) (ha : s.acr < c.nacr) :
    c.acrOfCstate (drawCstate s).1 = s.acr :=
  Config.acrOfCstate_drawCstate s.draws (hc s.acr ha)

/-- Settles O20: the law of the draws of `CSTATE` gives the read, `Changes` that `acr` stays, class X the refusal. -/
theorem activeAcr : Obligations.ActiveAcr := by
  refine ⟨fun c v hc => Config.acrOfCstate_lt hc v, fun c s hs => ⟨hs.acrLt, _, ssrRead_cstate s,
    acrOf_drawCstate hs.cstateOk hs.acrLt⟩, fun i s t h => ?_, fun c s v => ?_, ⟨cstateRow, findRow_cstate, rfl, rfl, rfl⟩,
    rfl⟩
  · obtain ⟨u, rfl, hch⟩ := exec_changes (s := s.body) h
    exact hch.acr
  · exact ssrWrite_liveControl (findRow_cstate c.nacr) (mayReach_base (by decide)) rfl

/-! ## Reset -/

theorem Config.resetAcr_lt_of_wf {c : Config} (hc : c.wf = true) : c.resetAcr < c.nacr := by
  obtain ⟨-, -, -, -, h, -⟩ := Config.wf_iff.1 hc
  exact h

/-- Settles O45: what is known of the chip's parameters, and empty files. -/
theorem resetMeetsInvariant : Obligations.ResetMeetsInvariant where
  cfgOk := Config.chip_wf
  cstateOk := Config.chip_holdsEveryAcr
  acrLt := Config.resetAcr_lt_of_wf Config.chip_wf
  gprRising := rfl
  gprInRange := rfl
  ssrRising := rfl
  ssrStored := rfl
  memOk := reset_mem_wf Config.chip

/-- With no program and no byte placed, `pc` stands at the end of the empty program. -/
theorem step_reset (c : Config) : step (StateOf.reset c).state = .fault .endOfRun :=
  (stepStopsWhereNothingStands c (StateOf.reset c) rfl rfl).1 rfl

/-- Settles O46: `ConstantRegisters` holds of every state, so of the one after reset. -/
theorem resetValues : Obligations.ResetValues := by
  obtain ⟨hlxlcid, hvendor, hversion, hlcfr, hdbgid, -, hval⟩ := constantRegisters
  refine ⟨fun c => ⟨rfl, rfl, ?_, ?_, ?_, ?_, fun n hn hm => ?_, step_reset c⟩, rfl,
    Config.resetAcr_lt_of_wf Config.chip_wf, Config.chip_holdsEveryAcr, Config.chip_noProfile.1, ?_,
    Config.chip_noProfile.2⟩
  · exact (hlxlcid c _ 0 (fun h => absurd h (by decide)) (mayReach_base rfl)).2.1
  · exact (hvendor c _ 0 (fun h => absurd h (by decide)) (mayReach_base rfl)).2.1
  · exact (hversion c _ 0 (fun h => absurd h (by decide)) (mayReach_base rfl)).2.1
  · exact (hlcfr c _ 0 (fun h => absurd h (by decide)) (mayReach_base rfl)).2.1
  · rw [(hdbgid n c _ 0 (fun _ => by rwa [familyOf_mgr]) hm).2.1, hval]
  · exact Config.policy_eq_raise (by simp [Config.chip_noProfile.1])

end Sys2Proof
end

section

namespace Sys2Proof

open Machine Claims

/-! ## Which parameters a machine can have -/

/-- A machine of a given width, number of ACRs and policy, its other parameters those of `Config.ofWidth`. -/
def Config.ofWidthNacrPolicy (xlen nacr : Nat) (p : Option OtherAcrPolicy) : Config :=
  { Config.ofWidth xlen with nacr := nacr, otherAcrPolicy := p }

theorem Config.ofWidthNacrPolicy_wf {xlen nacr : Nat} {p : Option OtherAcrPolicy} (hx : 48 ≤ xlen) (hlo : 2 ≤ nacr)
    (hhi : nacr ≤ 16) : (Config.ofWidthNacrPolicy xlen nacr p).wf = true :=
  Config.wf_iff.2 ⟨hx, hlo, hhi, (by decide : 0 < 16), Nat.lt_of_lt_of_le Nat.zero_lt_two hlo,
    decide_eq_true (Nat.lt_of_lt_of_le Nat.zero_lt_two hlo), rfl, rfl⟩

/-- Settles O48: the bounds are among R8's constraints, and no other constraint binds the three parameters. -/
theorem admittedWidthsAndFamilies : Obligations.AdmittedWidthsAndFamilies := by
  refine fun xlen nacr p => ⟨fun ⟨hx, hlo, hhi⟩ =>
    ⟨Config.ofWidthNacrPolicy xlen nacr p, Config.ofWidthNacrPolicy_wf hx hlo hhi, rfl, rfl, rfl⟩, ?_⟩
  rintro ⟨c, hc, rfl, rfl, -⟩
  obtain ⟨hx, hlo, hhi, -⟩ := Config.wf_iff.1 hc
  exact ⟨hx, hlo, hhi⟩

/-- Every word of a width. -/
def allWords (w : Nat) : List (BitVec w) := (List.range (2 ^ w)).map (BitVec.ofNat w)

theorem mem_allWords {w : Nat} (v : BitVec w) : v ∈ allWords w :=
  List.mem_map.2 ⟨v.toNat, List.mem_range.2 v.isLt, by simp⟩

/-- The layout that is a given function: its table over every word. -/
def layoutOf {xlen : Nat} (f : Word xlen → Nat) : CstateLayout xlen :=
  .table ((allWords xlen).map fun v => (v, f v)) (f 0)

theorem acrOf_layoutOf {xlen : Nat} (f : Word xlen → Nat) (nacr : Nat) (v : Word xlen) :
    (layoutOf f).acrOf nacr v = f v := by
  rw [layoutOf, CstateLayout.acrOf_table, lookup_tabulate f (mem_allWords v), Option.getD_some]

theorem layoutOf_wf {xlen nacr : Nat} {f : Word xlen → Nat} (hf : ∀ v, f v < nacr) : (layoutOf f).wf nacr = true := by
  simp [layoutOf, CstateLayout.wf, hf]

/-- A function of three items, as one of the items side by side. -/
def onItems {xlen : Nat} (g : BitVec 16 → BitVec 16 → BitVec 16 → Word xlen) (v : BitVec 48) : Word xlen :=
  g (v.extractLsb' 0 16) (v.extractLsb' 16 16) (v.extractLsb' 32 16)

/-- Each of three items side by side is in its sixteen bits. -/
theorem items_extractLsb' (i0 i1 i2 : BitVec 16) : (i2 ++ i1 ++ i0).extractLsb' 0 16 = i0 ∧
    (i2 ++ i1 ++ i0).extractLsb' 16 16 = i1 ∧ (i2 ++ i1 ++ i0).extractLsb' 32 16 = i2 := by
  refine ⟨BitVec.extractLsb'_append_eq_right, ?_, ?_⟩ <;> rw [BitVec.extractLsb'_append_eq_of_le (by decide)]
  · exact BitVec.extractLsb'_append_eq_right
  · exact BitVec.extractLsb'_append_eq_left

theorem onItems_append {xlen : Nat} (g : BitVec 16 → BitVec 16 → BitVec 16 → Word xlen) (i0 i1 i2 : BitVec 16) :
    onItems g (i2 ++ i1 ++ i0) = g i0 i1 i2 := by
  obtain ⟨h0, h1, h2⟩ := items_extractLsb' i0 i1 i2
  rw [onItems, h0, h1, h2]

/-- The packing that is a given function: its table over every three items. -/
def packingOf {xlen : Nat} (g : BitVec 16 → BitVec 16 → BitVec 16 → Word xlen) : EbargPacking xlen :=
  .table ((allWords 48).map fun v => (v, onItems g v)) 0

theorem pack_packingOf {xlen : Nat} (g : BitVec 16 → BitVec 16 → BitVec 16 → Word xlen) (i0 i1 i2 : BitVec 16) :
    (packingOf g).pack i0 i1 i2 = g i0 i1 i2 := by
  rw [packingOf, EbargPacking.pack_table, lookup_tabulate (onItems g) (mem_allWords _), Option.getD_some, onItems_append]

/-- Settles O51: the tables of the two functions. -/
theorem everyLayoutAndPackingHasAMachine : Obligations.EveryLayoutAndPackingHasAMachine := by
  intro c f g hc hf
  obtain ⟨hx, hlo, hhi, hw, ha, -, hremap, hstable⟩ := Config.wf_iff.1 hc
  exact ⟨layoutOf f, packingOf g, Config.wf_iff.2 ⟨hx, hlo, hhi, hw, ha, layoutOf_wf hf, hremap, hstable⟩,
    acrOf_layoutOf f c.nacr, pack_packingOf g⟩

/-! ## A bit field of `CSTATE` -/

/-- A field that lies inside the word holds every number of its width. -/
theorem extractLsb'_ofNat_shiftLeft {xlen lo len a : Nat} (h : lo + len ≤ xlen) (ha : a < 2 ^ len) :
    ((BitVec.ofNat xlen (a <<< lo)).extractLsb' lo len).toNat = a := by
  have hfits : a <<< lo < 2 ^ xlen := by
    rw [Nat.shiftLeft_eq]
    calc a * 2 ^ lo < 2 ^ len * 2 ^ lo := Nat.mul_lt_mul_of_pos_right ha (Nat.two_pow_pos lo)
      _ = 2 ^ (lo + len) := by rw [← Nat.pow_add, Nat.add_comm]
      _ ≤ 2 ^ xlen := Nat.pow_le_pow_right Nat.zero_lt_two h
  rw [BitVec.extractLsb'_toNat, BitVec.toNat_ofNat, Nat.mod_eq_of_lt hfits, Nat.shiftLeft_shiftRight,
    Nat.mod_eq_of_lt ha]

theorem holdsEveryAcr_of_field {c : Config} {lo len other : Nat} (hl : c.cstateLayout = .field lo len other)
    (hin : lo + len ≤ c.xlen) (hroom : c.nacr ≤ 2 ^ len) : c.HoldsEveryAcr := by
  intro a ha
  refine ⟨BitVec.ofNat c.xlen (a <<< lo), ?_⟩
  rw [Config.acrOfCstate, hl, CstateLayout.acrOf_field, extractLsb'_ofNat_shiftLeft hin (ha.trans_le hroom), if_pos ha]

/-- Settles O52: the value drawn is one of which the layout gives the active ACR, from the field or, where the field is
out of range, by the number that stands for it. -/
theorem cstateFieldHoldsTheActiveAcr : Obligations.CstateFieldHoldsTheActiveAcr := by
  intro c lo len other hl hin hroom
  have hall := holdsEveryAcr_of_field hl hin hroom
  refine ⟨hall, fun s ha => ⟨(drawCstate s).1, ssrRead_cstate s, ?_⟩⟩
  have hacr := acrOf_drawCstate hall ha
  rw [Config.acrOfCstate, hl, CstateLayout.acrOf_field] at hacr
  split_ifs at hacr with hlt
  · exact .inl hacr
  · exact .inr ⟨hacr.symm, Nat.le_of_not_lt hlt⟩

/-! ## The recommended packing -/

/-- Shifted to their places and joined, the three items stand side by side: no two of them share a bit. -/
theorem pack_recommended_eq_append {xlen : Nat} (i0 i1 i2 : BitVec 16) :
    (EbargPacking.recommended : EbargPacking xlen).pack i0 i1 i2 = (i2 ++ i1 ++ i0).setWidth xlen := by
  have habove : ∀ (i : BitVec 16) {j : Nat}, 16 ≤ j → i.getLsbD j = false := fun i j hj => i.getLsbD_of_ge j hj
  rw [EbargPacking.pack_recommended]
  ext k hk
  simp only [BitVec.getElem_setWidth, BitVec.getElem_or, BitVec.getElem_shiftLeft, items_getLsbD]
  obtain h | h | h : k < 16 ∨ (16 ≤ k ∧ k < 32) ∨ 32 ≤ k := by omega
  · simp [h, show k < 32 by omega]
  · simp [h.2, habove i0 h.1, Nat.not_lt.2 h.1]
  · simp [habove i0 (show 16 ≤ k by omega), habove i1 (show 16 ≤ k - 16 by omega), Nat.not_lt.2 h,
      show ¬k < 16 by omega]

/-- Settles O53: the recommended packing is the items side by side, cut or extended to the width. -/
theorem recommendedPackingOfEbargWords : Obligations.RecommendedPackingOfEbargWords := by
  intro c hc r0 r1 r2
  refine ⟨by rw [Config.ebargPack, hc, pack_recommended_eq_append, packRecommended], fun hx => ?_⟩
  obtain ⟨h0, h1, h2⟩ := items_extractLsb' (r0.setWidth 16) (r1.setWidth 16) (r2.setWidth 16)
  have hlow : ∀ r : Word c.xlen, r.setWidth 16 = r.extractLsb' 0 16 := fun r =>
    BitVec.setWidth_eq_extractLsb' (by omega)
  rw [packRecommended]
  refine ⟨?_, ?_, ?_, ?_⟩
  · rw [BitVec.extractLsb'_setWidth_of_le (by omega), h0, hlow]
  · rw [BitVec.extractLsb'_setWidth_of_le (by omega), h1, hlow]
  · rw [BitVec.extractLsb'_setWidth_of_le (by omega), h2, hlow]
  · rw [BitVec.toNat_setWidth]
    exact (Nat.mod_le _ _).trans_lt (BitVec.isLt _)

end Sys2Proof
end
